-- ==== Sys2Proof/Word.lean ====
section
/-! DEFINITION. The word types of TRIG18: one name for each port width of the spec.
Bit 0 is the least significant bit of each (00_scope.md R11). -/

namespace Sys2Proof

/-- The operation select `req_op`, `REQ[1:0]` (30_encoding.md R49, R50). -/
abbrev OpSel := BitVec 2

/-- The angle operand `req_angle`, `REQ[21:2]`: unsigned, scale 2^20 turns (00_scope.md R8 `ANGLE_W`). -/
abbrev Angle := BitVec 20

/-- The accumulator operand `req_acc`, `REQ[53:22]`: two's complement (00_scope.md R8 `ACC_W`). -/
abbrev Acc := BitVec 32

/-- A result pattern: two's complement at scale 2^17 (00_scope.md R8 `RESULT_W`, R16). -/
abbrev Res := BitVec 18

/-- The request word `REQ[53:0]`, the only format and the only length (30_encoding.md R49, R55). -/
abbrev ReqWord := BitVec 54

end Sys2Proof
end

