-- ==== Sys2Proof/Config.lean ====
section
/-! DEFINITION. What an implementation fixes: the OPEN parameters of 00_scope.md R8, and the shape of the
configuration record that holds the hard-wired literals of R9. The literals themselves stand in
Machine/Coeffs.lean. TRIG18 leaves no result open, so there is no free value here (93_implementation_defined.md). -/

namespace Sys2Proof

/-- `BUS_BYTE_ORDER` (20_memory.md R38): only a bus wrapper has one. -/
inductive ByteOrder where
  | littleEndian
  | bigEndian
deriving DecidableEq, Repr

/-- `RESET_STYLE` (70_reset_and_hazards.md R110). -/
inductive ResetStyle where
  | synchronous
  | asynchronous
deriving DecidableEq, Repr

/-- The OPEN parameters of 00_scope.md R8, which the model takes as an argument. Only `latency` is read by the unit
(Machine/Cycle.lean) and `faultIrq` by the platform's interrupt line (60_exceptions.md R103). The other three are read
by nothing: R8 says that no operation's result depends on any of them. -/
structure Params where
  /-- `LATENCY`: cycles from acceptance to response, the same for every request. -/
  latency : Nat
  /-- `FAULT_IRQ`: whether the platform wires `fault_o` to an interrupt. -/
  faultIrq : Bool
  /-- `BUS_BYTE_ORDER`. -/
  busByteOrder : ByteOrder
  /-- `BUS_BASE`. -/
  busBase : Nat
  /-- `RESET_STYLE`. -/
  resetStyle : ResetStyle
deriving DecidableEq, Repr

/-- The configuration record of the hard-wired literals (00_scope.md R9, 93_implementation_defined.md I3, I4):
each constant `k<n>` with the right shift `shift<n>` of its term, and the shift of every power product. -/
structure Coeffs where
  k1 : Int
  k2 : Int
  k3 : Int
  k4 : Int
  k5 : Int
  k6 : Int
  k7 : Int
  k8 : Int
  shift1 : Nat
  shift2 : Nat
  shift3 : Nat
  shift4 : Nat
  shift5 : Nat
  shift6 : Nat
  shift7 : Nat
  shift8 : Nat
  powShift : Nat
deriving DecidableEq, Repr

end Sys2Proof
end

