-- ==== Sys2Proof/Machine/Coeffs.lean ====
section
/-! DEFINITION. The hard-wired literals of 00_scope.md R9: the constants k1…k8 and the shift of each term, with the shift
of every power product (41_sine.md R74, 42_cosine.md R86). Nothing reads them from or writes them to state
(70_reset_and_hazards.md R113). -/

namespace Sys2Proof.Machine

/-- The default values of 00_scope.md R9, "opaque literals" of the source. -/
def coeffs : Coeffs where
  k1 := 205887
  k2 := 161704
  k3 := 169336
  k4 := 132996
  k5 := 167014
  k6 := 175016
  k7 := 150000
  k8 := 241700
  shift1 := 17
  shift2 := 17
  shift3 := 18
  shift4 := 19
  shift5 := 21
  shift6 := 23
  shift7 := 25
  shift8 := 28
  powShift := 18

end Sys2Proof.Machine
end

