-- ==== Sys2Proof/Machine/Operands.lean ====
section
/-! DEFINITION. The notation of 00_scope.md section 5 on exact integers (R12), operand assembly (30_encoding.md R51), and the
domain reducer that SIN and COS share (41_sine.md R69 to R71, 42_cosine.md R83). -/

namespace Sys2Proof.Machine

/-- `v >> n`, the arithmetic right shift `floor(v / 2^n)` (00_scope.md R14). `Int` division by a positive number is floor. -/
def shr (v : Int) (n : Nat) : Int := v / 2 ^ n

/-- `bit(v, k) = floor(v / 2^k) mod 2` (00_scope.md R13). -/
def bitOf (v : Int) (k : Nat) : Bool := shr v k % 2 == 1

/-- `neg(v)`: on exact integers, `-v` (00_scope.md R15). -/
def neg (v : Int) : Int := -v

/-- `to18(v) = v mod 2^18` as a pattern (00_scope.md R16). -/
def to18 (v : Int) : Res := BitVec.ofInt 18 v

/-- `from18(p) = sext_18(p)` (00_scope.md R16). -/
def from18 (p : Res) : Int := p.toInt

/-- `acc` is read as `sext_32` (30_encoding.md R51). -/
def readAcc (acc : Acc) : Int := acc.toInt

/-- `high0 = angle[19]` (41_sine.md R70). -/
def high0 (angle : Angle) : Bool := angle.getLsbD 19

/-- `high1 = angle[18]` (41_sine.md R70). -/
def high1 (angle : Angle) : Bool := angle.getLsbD 18

/-- `lo = zext_18(angle[17:0])` (41_sine.md R71). -/
def low18 (angle : Angle) : Int := (angle.extractLsb' 0 18).toNat

/-- The folded argument `x1` (41_sine.md R71). -/
def fold (angle : Angle) : Int :=
  if high1 angle then (2 ^ 18 - low18 angle) % 2 ^ 18 else low18 angle

/-- A power product with its immediate rescale (41_sine.md R74, 42_cosine.md R86). -/
def powMul (x y : Int) : Int := shr (x * y) coeffs.powShift

/-- `x2`, the power that the sine and the cosine share (41_sine.md R74, 42_cosine.md R86). -/
def powX2 (x1 : Int) : Int := powMul x1 x1

end Sys2Proof.Machine
end

