-- ==== Sys2Proof/Machine/Flags.lean ====
section
/-! DEFINITION. The per-operation flags (10_state.md R31): computed afresh from each request's own angle, never kept. -/

namespace Sys2Proof.Machine

/-- `negative` of SIN (41_sine.md R72). -/
def sinNegative (angle : Angle) : Bool := high0 angle

/-- `one`, the peak flag of SIN (41_sine.md R73). -/
def sinOne (angle : Angle) : Bool := (fold angle == 0) && high1 angle

/-- `negative` of COS (42_cosine.md R84). -/
def cosNegative (angle : Angle) : Bool := high0 angle ^^ high1 angle

/-- `zero`, the zero flag of COS (42_cosine.md R85). -/
def cosZero (angle : Angle) : Bool := (fold angle == 0) && high1 angle

end Sys2Proof.Machine
end

