-- ==== Sys2Proof/Syntax.lean ====
section
/-! DEFINITION. The operations of TRIG18 (30_encoding.md R52): one constructor per row of the opcode table.
Each carries BOTH operand fields of its request word. The field the operation does not read is kept, because it may
hold any value (R53) and decoding must drop no bit; the meaning ignores it. -/

namespace Sys2Proof

/-- A decoded request. Every field has the width of its port, so that every term is a request of the hardware. -/
inductive Instr where
  /-- `SIN <angle>` (41_sine.md R80); `acc` is not read. -/
  | sin (angle : Angle) (acc : Acc)
  /-- `COS <angle>` (42_cosine.md R91); `acc` is not read. -/
  | cos (angle : Angle) (acc : Acc)
  /-- `CLAMP <acc>` (40_overflow_clamp.md R65); `angle` is not read. -/
  | clamp (angle : Angle) (acc : Acc)
deriving DecidableEq, Repr

end Sys2Proof
end

