-- ==== Sys2Proof/WellFormed.lean ====
section
/-! DEFINITION. Requests as they are WRITTEN (30_encoding.md R59), with operands wider than the ports, and the check that
each operand lies in the range its port carries (R51). An operand outside its range is refused, never masked
(93_implementation_defined.md I1, 90_conflicts.md C7). A decoded `Instr` has port-wide fields and needs no check. -/

namespace Sys2Proof

/-- The request syntax of 30_encoding.md R59, one constructor per form. -/
inductive Written where
  /-- `SIN <angle>`. -/
  | sin (angle : Nat)
  /-- `COS <angle>`. -/
  | cos (angle : Nat)
  /-- `CLAMP <acc>`. -/
  | clamp (acc : Int)
  /-- `.word <54-bit hex>`: a raw request word, the way to write the reserved encoding. -/
  | word (w : Nat)
deriving DecidableEq, Repr

/-- An angle is a number in `[0, 2^20)` (30_encoding.md R51, R59). -/
def angleInRange (angle : Nat) : Bool := decide (angle < 2 ^ 20)

/-- An accumulator is a number in `[-2^31, 2^31)` (30_encoding.md R51, R59). -/
def accInRange (acc : Int) : Bool := decide (-2 ^ 31 ≤ acc ∧ acc < 2 ^ 31)

/-- A raw request word has 54 bits (30_encoding.md R49, R59). -/
def wordInRange (w : Nat) : Bool := decide (w < 2 ^ 54)

/-- The check of a written request. -/
def Written.wellFormed : Written → Bool
  | .sin angle => angleInRange angle
  | .cos angle => angleInRange angle
  | .clamp acc => accInRange acc
  | .word w => wordInRange w

end Sys2Proof
end

