-- ==== Sys2Proof/Decode.lean ====
section
/-! DEFINITION. Decoding of a request word, total on all 2^54 words (30_encoding.md R56), and the encoder. -/

namespace Sys2Proof

/-- Why a request word is no operation. -/
inductive DecodeError where
  /-- `op = 0b11`, the reserved encoding (30_encoding.md R54). -/
  | reservedOp
deriving DecidableEq, Repr

/-- The outcome of decoding: an operation, or the reserved encoding by name. -/
inductive Decoded where
  | instr (i : Instr)
  | rejected (e : DecodeError)
deriving DecidableEq, Repr

/-- `op = REQ[1:0]` (30_encoding.md R49). -/
def opField (req : ReqWord) : OpSel := req.extractLsb' 0 2

/-- `angle = REQ[21:2]` (30_encoding.md R49). -/
def angleField (req : ReqWord) : Angle := req.extractLsb' 2 20

/-- `acc = REQ[53:22]` (30_encoding.md R49). -/
def accField (req : ReqWord) : Acc := req.extractLsb' 22 32

/-- `REQ = {acc, angle, op}` (30_encoding.md R49). -/
def packReq (op : OpSel) (angle : Angle) (acc : Acc) : ReqWord := acc ++ angle ++ op

/-- The opcode map of 30_encoding.md R52. `op` alone selects the operation (R50). -/
def decode (req : ReqWord) : Decoded :=
  if opField req = 0 then .instr (.sin (angleField req) (accField req))
  else if opField req = 1 then .instr (.cos (angleField req) (accField req))
  else if opField req = 2 then .instr (.clamp (angleField req) (accField req))
  else .rejected .reservedOp

/-- The request word of an operation (30_encoding.md R49, R52). -/
def encode : Instr → ReqWord
  | .sin angle acc => packReq 0 angle acc
  | .cos angle acc => packReq 1 angle acc
  | .clamp angle acc => packReq 2 angle acc

/-- The request word of a written request, with an ignored field encoded as 0 (30_encoding.md R59). An operand out of
range is refused and never masked (R51, 93_implementation_defined.md I1). -/
def assemble (r : Written) : Option ReqWord :=
  if r.wellFormed then
    match r with
    | .sin angle => some (packReq 0 (BitVec.ofNat 20 angle) 0)
    | .cos angle => some (packReq 1 (BitVec.ofNat 20 angle) 0)
    | .clamp acc => some (packReq 2 0 (BitVec.ofInt 32 acc))
    | .word w => some (BitVec.ofNat 54 w)
  else none

/-- The request word whose bits are the low `nbits` bits of `w`: none where a bit is set above bit 53, since a request has
54 bits and an operand is never masked (30_encoding.md R49, R51). -/
def reqOfBits (nbits w : Nat) : Option ReqWord :=
  if w % 2 ^ nbits < 2 ^ 54 then some (BitVec.ofNat 54 (w % 2 ^ nbits)) else none

/-- The instruction the decoder reads from the bits `w`, numbered as spec/opcode_table.json numbers them. -/
def decodeTableWord (nbits w : Nat) : Option Instr :=
  match reqOfBits nbits w with
  | none => none
  | some req =>
    match decode req with
    | .instr i => some i
    | .rejected _ => none

end Sys2Proof
end

