-- ==== Sys2Proof/Machine/State.lean ====
section
/-! DEFINITION. The state of TRIG18 as plain data (10_state.md section 3), the reasons a step can stop, and reset. -/

namespace Sys2Proof.Machine

/-- A request that was accepted and not yet answered (10_state.md R33). -/
structure InFlight where
  /-- The request word, sampled whole when it was accepted (20_memory.md R40). -/
  req : ReqWord
  /-- How many cycles are left until its response; `LATENCY` at acceptance (10_state.md R24). -/
  left : Nat
deriving DecidableEq, Repr

/-- What the host does to the unit (70_reset_and_hazards.md R122): the two interactions in which it sends something.
Taking a response and reading status send nothing: they are the read functions of Machine/Ops.lean. -/
inductive HostAction where
  /-- Present the request `req` at the request port (10_state.md R23). -/
  | present (req : ReqWord)
  /-- Apply reset (70_reset_and_hazards.md R110). -/
  | applyReset
deriving DecidableEq, Repr

/-- The state of one unit. -/
structure State where
  /-- `RESULT[17:0]`, or no value (10_state.md R26: "A model must not give it a value"). -/
  result : Option Res
  /-- `VALID` (10_state.md R27). -/
  valid : Bool
  /-- `FAULT`, sticky (10_state.md R28). -/
  fault : Bool
  /-- `CAUSE[1:0]` (10_state.md R29). -/
  cause : BitVec 2
  /-- The response port: `resp_valid` with `resp_result` when a response was delivered by the last step, none when
  `resp_valid = 0` (10_state.md R24). -/
  resp : Option Res
  /-- The requests in flight, oldest first (10_state.md R33). Always empty when every request is answered at acceptance. -/
  inFlight : List InFlight
  /-- What the host does next, in order: its sequence of requests and resets, which plays the part of a program
  (10_state.md R21). This is the model's input, not a queue inside the unit. -/
  host : List HostAction
  /-- Whether reset was applied since power-up. The model's own field: before the first reset there is no move
  (70_reset_and_hazards.md R114, 93_implementation_defined.md I9). -/
  wasReset : Bool
deriving DecidableEq, Repr

/-- The stops of the model that the spec calls a fault or a stuck request. Neither is a fault of the unit: those are
next states, entered by `enterFault` (60_exceptions.md R97). -/
inductive Fault where
  /-- Raised by `readResult` while `VALID = 0`: `RESULT` holds no value (10_state.md R26, R36). Safe: nothing is returned. -/
  | resultHasNoValue
  /-- Raised by `step` on a request presented while `FAULT = 1`: it is not accepted and has no step
  (60_exceptions.md R98, 93_implementation_defined.md I10 "stuck"). Safe: the request is never answered. -/
  | requestNotAccepted
deriving DecidableEq, Repr

/-- The refusals of the model. -/
inductive Refusal where
  /-- An instruction that has no meaning yet. No arm of `exec` answers it. -/
  | notModelled (mnemonic : String)
  /-- Raised by `step` and `cycle` in a state with `CAUSE = 3`, which is never written
  (93_implementation_defined.md I7 "refuse"). Safe: no run reaches it. -/
  | reservedCause
  /-- Raised by `step` and `cycle` before the first reset (93_implementation_defined.md I9 "refuse"), and by `cycle` on a request
  presented in the cycle of that reset (70_reset_and_hazards.md R122, R114). Safe: no claim covers it. -/
  | neverReset
  /-- Raised by `portCycle` when the host changes the fields of a request that waits for its acceptance: R122 gives that no
  move. Safe: no claim covers such a run. -/
  | requestChanged
  /-- Raised by `presentWritten` on an operand outside its port's range (30_encoding.md R51,
  93_implementation_defined.md I1 "refuse"). Safe: the operand is not masked. -/
  | operandOutOfRange
deriving DecidableEq, Repr

/-- The state right after reset (10_state.md R35, 70_reset_and_hazards.md R110, R111), with nothing presented. -/
def State.reset : State where
  result := none
  valid := false
  fault := false
  cause := 0
  resp := none
  inFlight := []
  host := []
  wasReset := true

end Sys2Proof.Machine
end

