-- ==== Sys2Proof/Machine/Ops.lean ====
section
/-! DEFINITION. The named operations on the state: delivering a response, entering a fault, reset, and the reads of the
status outputs. -/

namespace Sys2Proof.Machine

/-- The causes a request can fault with (60_exceptions.md R95). -/
inductive FaultCause where
  /-- CLAMP_POST: the clamp's postcondition failed (40_overflow_clamp.md R61). -/
  | clampPost
  /-- ILLEGAL_OP: the reserved operation select (30_encoding.md R54). -/
  | illegalOp
deriving DecidableEq, Repr

/-- The `CAUSE` code of a cause (10_state.md R29, 60_exceptions.md R95). -/
def causeCode : FaultCause → BitVec 2
  | .clampPost => 1
  | .illegalOp => 2

/-- `RESULT <- r ; VALID <- 1 ; deliver response r` (10_state.md R34). -/
def respond (r : Res) (s : State) : State :=
  { s with result := some r, valid := true, resp := some r }

/-- Fault entry (60_exceptions.md R97): `FAULT <- 1 ; CAUSE <- c ; VALID <- 0`, `RESULT` holds no value, no response; and
every request accepted after the faulting one is discarded (R100). Nothing else is recorded (R101). -/
def enterFault (c : FaultCause) (s : State) : State :=
  { s with
    fault := true
    cause := causeCode c
    valid := false
    result := none
    resp := none
    inFlight := [] }

/-- The end of a request's step, from its outcome (10_state.md R34). -/
def finish (o : Except FaultCause Res) (s : State) : State :=
  match o with
  | .ok r => respond r s
  | .error c => enterFault c s

/-- Reset (70_reset_and_hazards.md R110): `FAULT`, `CAUSE` and `VALID` are 0, `RESULT` holds no value, no response is
delivered, and every request in flight is discarded (R111). It is the only way out of the fault state
(60_exceptions.md R98, R102). What the host does next is the host's and stays. -/
def applyReset (s : State) : State :=
  { s with
    result := none
    valid := false
    fault := false
    cause := 0
    resp := none
    inFlight := []
    wasReset := true }

/-- The states in which the unit has no move but reset: before the first reset (93_implementation_defined.md I9), and with
the reserved `CAUSE = 3` (I7). -/
def noMove (s : State) : Option Refusal :=
  if s.wasReset = false then some .neverReset
  else if s.cause = 3 then some .reservedCause
  else none

/-- Carry on from a next state. -/
def andThen {α β : Type} (o : Host.Outcome α Fault Refusal) (f : α → Host.Outcome β Fault Refusal) :
    Host.Outcome β Fault Refusal :=
  match o with
  | .next s => f s
  | .fault r => .fault r
  | .refused r => .refused r

/-- `STATUS[3:0]`: `FAULT` in bit 0, `CAUSE` in bits 2:1, `VALID` in bit 3 (10_state.md R30). -/
def status (s : State) : BitVec 4 :=
  BitVec.ofBool s.valid ++ s.cause ++ BitVec.ofBool s.fault

/-- The host's read of `RESULT` while `VALID = 1` (70_reset_and_hazards.md R116). While `VALID = 0` there is no value, and the
spec itself stops the model there: "reading it while `VALID = 0` is a fault of the model" (10_state.md R26), which "must fault,
not return a default" (R36; 92_eei_decisions.md D26, 93_implementation_defined.md I8). -/
def readResult (s : State) : Except Fault Res :=
  match s.valid, s.result with
  | true, some r => .ok r
  | _, _ => .error .resultHasNoValue

/-- The level-sensitive interrupt of a platform that wires `fault_o`: pending exactly while `FAULT = 1`
(60_exceptions.md R103). -/
def faultIrqLevel (p : Params) (s : State) : Bool := p.faultIrq && s.fault

end Sys2Proof.Machine
end

