-- ==== Sys2Proof/Machine/Clamp.lean ====
section
/-! DEFINITION. The Overflow Clamp and the CLAMP operation (40_overflow_clamp.md). -/

namespace Sys2Proof.Machine

/-- The smallest and the largest value of `w` bits two's complement. -/
def minOf (w : Nat) : Int := -2 ^ (w - 1)

/-- See `minOf`. -/
def maxOf (w : Nat) : Int := 2 ^ (w - 1) - 1

/-- The saturation of 40_overflow_clamp.md R61: a test of the two bits `w` and `w-1`, not a range comparison (R62). -/
def saturate (w : Nat) (v : Int) : Int :=
  if bitOf v w ≠ bitOf v (w - 1) then (if bitOf v w then minOf w else maxOf w) else v

/-- `CLAMP_w(v)` with its postcondition (40_overflow_clamp.md R61): `c >> (w-1)` is 0 or -1, or the clamp faults. -/
def clampTo (w : Nat) (v : Int) : Except FaultCause Int :=
  if shr (saturate w v) (w - 1) = 0 ∨ shr (saturate w v) (w - 1) = -1 then .ok (saturate w v)
  else .error .clampPost

/-- `return to18(CLAMP18(v))`, the last step of every operation (40_overflow_clamp.md R68). -/
def clampResult (v : Int) : Except FaultCause Res :=
  match clampTo 18 v with
  | .ok c => .ok (to18 c)
  | .error e => .error e

/-- `CLAMP(acc)` (40_overflow_clamp.md R65). -/
def clampOp (acc : Acc) : Except FaultCause Res := clampResult (readAcc acc)

/-- CLAMP (40_overflow_clamp.md R65). `angle` is ignored (30_encoding.md R53). CLAMP_POST is taken as a next state. -/
def execClamp (_angle : Angle) (acc : Acc) (s : State) : Host.Outcome State Fault Refusal :=
  .next (finish (clampOp acc) s)

end Sys2Proof.Machine
end

