-- ==== Sys2Proof/Machine/Cosine.lean ====
section
/-! DEFINITION. The cosine approximator and the COS operation (42_cosine.md). It is not a shifted sine (R93). -/

namespace Sys2Proof.Machine

/-- `x4 = (x2 * x2) >> 18` (42_cosine.md R86). -/
def cosX4 (x1 : Int) : Int := powMul (powX2 x1) (powX2 x1)

/-- `x6 = (x4 * x2) >> 18` (42_cosine.md R86). -/
def cosX6 (x1 : Int) : Int := powMul (cosX4 x1) (powX2 x1)

/-- `x8 = (x4 * x4) >> 18` (42_cosine.md R86). -/
def cosX8 (x1 : Int) : Int := powMul (cosX4 x1) (cosX4 x1)

/-- `t2 = (k2 * x2) >> 17` (42_cosine.md R87). -/
def cosT2 (x1 : Int) : Int := shr (coeffs.k2 * powX2 x1) coeffs.shift2

/-- `t4 = (k4 * x4) >> 19` (42_cosine.md R87). -/
def cosT4 (x1 : Int) : Int := shr (coeffs.k4 * cosX4 x1) coeffs.shift4

/-- `t6 = (k6 * x6) >> 23` (42_cosine.md R87). -/
def cosT6 (x1 : Int) : Int := shr (coeffs.k6 * cosX6 x1) coeffs.shift6

/-- `t8 = (k8 * x8) >> 28` (42_cosine.md R87). -/
def cosT8 (x1 : Int) : Int := shr (coeffs.k8 * cosX8 x1) coeffs.shift8

/-- `s = 2^18 - t2 + t4 - t6 + t8`, an exact signed integer at scale 2^18 (42_cosine.md R88). -/
def cosSum (x1 : Int) : Int := 2 ^ 18 - cosT2 x1 + cosT4 x1 - cosT6 x1 + cosT8 x1

/-- The rescaled sum `y = s >> 1`, or 0 where the zero override applies (42_cosine.md R88, R89). -/
def cosZeroed (angle : Angle) : Int :=
  if cosZero angle then 0 else shr (cosSum (fold angle)) 1

/-- The value `y` handed to the clamp: the negation comes after the override (42_cosine.md R90). -/
def cosY (angle : Angle) : Int :=
  if cosNegative angle then neg (cosZeroed angle) else cosZeroed angle

/-- `COS(angle)` (42_cosine.md R91). The clamp's check stays, though no angle reaches it (R92, 92_eei_decisions.md D32). -/
def cosOp (angle : Angle) : Except FaultCause Res := clampResult (cosY angle)

/-- COS (42_cosine.md R91). `acc` is ignored (30_encoding.md R53). -/
def execCos (angle : Angle) (_acc : Acc) (s : State) : Host.Outcome State Fault Refusal :=
  .next (finish (cosOp angle) s)

end Sys2Proof.Machine
end

