-- ==== Sys2Proof/Machine/Sine.lean ====
section
/-! DEFINITION. The sine approximator and the SIN operation (41_sine.md). -/

namespace Sys2Proof.Machine

/-- `x3 = (x2 * x1) >> 18` (41_sine.md R74). -/
def sinX3 (x1 : Int) : Int := powMul (powX2 x1) x1

/-- `x5 = (x3 * x2) >> 18` (41_sine.md R74). -/
def sinX5 (x1 : Int) : Int := powMul (sinX3 x1) (powX2 x1)

/-- `x7 = (x5 * x2) >> 18` (41_sine.md R74). -/
def sinX7 (x1 : Int) : Int := powMul (sinX5 x1) (powX2 x1)

/-- `t1 = (k1 * x1) >> 17` (41_sine.md R75). -/
def sinT1 (x1 : Int) : Int := shr (coeffs.k1 * x1) coeffs.shift1

/-- `t3 = (k3 * x3) >> 18` (41_sine.md R75). -/
def sinT3 (x1 : Int) : Int := shr (coeffs.k3 * sinX3 x1) coeffs.shift3

/-- `t5 = (k5 * x5) >> 21` (41_sine.md R75). -/
def sinT5 (x1 : Int) : Int := shr (coeffs.k5 * sinX5 x1) coeffs.shift5

/-- `t7 = (k7 * x7) >> 25` (41_sine.md R75). -/
def sinT7 (x1 : Int) : Int := shr (coeffs.k7 * sinX7 x1) coeffs.shift7

/-- `s = t1 - t3 + t5 - t7`, an exact integer at scale 2^18 (41_sine.md R76). -/
def sinSum (x1 : Int) : Int := sinT1 x1 - sinT3 x1 + sinT5 x1 - sinT7 x1

/-- The rescaled sum `y = s >> 1`, or `2^17` where the peak override applies (41_sine.md R76, R77). -/
def sinPeaked (angle : Angle) : Int :=
  if sinOne angle then 2 ^ 17 else shr (sinSum (fold angle)) 1

/-- The value `y` handed to the clamp: the negation comes after the override (41_sine.md R78). -/
def sinY (angle : Angle) : Int :=
  if sinNegative angle then neg (sinPeaked angle) else sinPeaked angle

/-- `SIN(angle)` (41_sine.md R80). The clamp's check stays, though no angle reaches it (R81, 92_eei_decisions.md D32). -/
def sinOp (angle : Angle) : Except FaultCause Res := clampResult (sinY angle)

/-- SIN (41_sine.md R80). `acc` is ignored (30_encoding.md R53). -/
def execSin (angle : Angle) (_acc : Acc) (s : State) : Host.Outcome State Fault Refusal :=
  .next (finish (sinOp angle) s)

end Sys2Proof.Machine
end

