-- ==== Sys2Proof/Machine/Dispatch.lean ====
section
/-! DEFINITION. The opcode map of 30_encoding.md R52, one arm per operation: what an ACCEPTED request does
(10_state.md R34). Whether a request is accepted is decided by the step (Machine/Request.lean, Machine/Cycle.lean). -/

namespace Sys2Proof.Machine

def exec (i : Instr) (s : State) : Host.Outcome State Fault Refusal :=
  match i with
  | .sin angle acc => Sys2Proof.Machine.execSin angle acc s
  | .cos angle acc => Sys2Proof.Machine.execCos angle acc s
  | .clamp angle acc => Sys2Proof.Machine.execClamp angle acc s

end Sys2Proof.Machine
end

