-- ==== Sys2Proof/Machine/Request.lean ====
section
/-! DEFINITION. The transaction step of 10_state.md R34: how the next request comes to run. -/

namespace Sys2Proof.Machine

/-- Decode an accepted request and run it (10_state.md R34). The reserved encoding takes the fault ILLEGAL_OP, decided
before any operation runs (30_encoding.md R54, 60_exceptions.md R99). -/
def perform (req : ReqWord) (s : State) : Host.Outcome State Fault Refusal :=
  match decode req with
  | .instr i => exec i s
  | .rejected .reservedOp => .next (enterFault .illegalOp s)

/-- `req_ready` while no reset is applied and no older request is due (10_state.md R23): `FAULT = 0`. -/
def accepts (s : State) : Bool := !s.fault

/-- A step without a request: no response is delivered, and nothing else changes. -/
def idle (s : State) : State := { s with resp := none }

/-- The step in the fault state (60_exceptions.md R98): a request presented then is not accepted and has no step. -/
def haltedStep (s : State) : Host.Outcome State Fault Refusal :=
  match s.host with
  | .present _ :: _ => .fault .requestNotAccepted
  | _ => .next (idle s)

/-- The step while requests are accepted: the oldest request in flight is answered first (10_state.md R24, R33); with none
in flight, the request presented next is accepted and answered at once (R34). -/
def acceptingStep (s : State) : Host.Outcome State Fault Refusal :=
  match s.inFlight with
  | f :: fs => perform f.req { s with inFlight := fs }
  | [] =>
    match s.host with
    | .present req :: rest => perform req { s with host := rest }
    | _ => .next (idle s)

/-- One transaction (10_state.md R34). A reset the host applies comes first; it discards what is in flight
(70_reset_and_hazards.md R110, R111). -/
def transaction (s : State) : Host.Outcome State Fault Refusal :=
  match s.host with
  | .applyReset :: rest => .next (applyReset { s with host := rest })
  | _ =>
    match noMove s with
    | some r => .refused r
    | none => if accepts s then acceptingStep s else haltedStep s

/-- The host puts a written request at the end of its sequence (30_encoding.md R59). An operand wider than its port is
refused, not masked (R51, 93_implementation_defined.md I1). -/
def presentWritten (r : Written) (s : State) : Host.Outcome State Fault Refusal :=
  match assemble r with
  | some req => .next { s with host := s.host ++ [.present req] }
  | none => .refused .operandOutOfRange

end Sys2Proof.Machine
end

