-- ==== Sys2Proof/Machine/Step.lean ====
section
/-! DEFINITION. The step of the machine, and where it takes its next instruction from. -/

namespace Sys2Proof.Machine

/-- One step is one transaction (10_state.md R34). -/
def step (s : State) : Host.Outcome State Fault Refusal := transaction s

/-- `s` with the request whose bits are `w` presented next: the unit fetches nothing, its operation is the request at its
port (20_memory.md R47). The host's next action is replaced, and nothing older is in flight before it. Bits that no request
word has leave `s` as it is. -/
def State.withFetchWord (s : State) (nbits w : Nat) : State :=
  match reqOfBits nbits w with
  | some req => { s with inFlight := [], host := .present req :: s.host.tail }
  | none => s

end Sys2Proof.Machine
end

