-- ==== Sys2Proof/Machine/Cycle.lean ====
section
/-! DEFINITION. The unit clock cycle by clock cycle, for any `LATENCY`: the ports of 10_state.md R23 to R25, requests in
flight (R33), and reset at the port (70_reset_and_hazards.md R110 to R112). It runs requests by the same `perform` as the
transaction step. -/

namespace Sys2Proof.Machine

/-- What the host drives in one cycle (10_state.md R23). -/
structure PortIn where
  /-- `rst`. -/
  rst : Bool
  /-- `req_valid`. -/
  reqValid : Bool
  /-- `req_op`. -/
  reqOp : OpSel
  /-- `req_angle`. -/
  reqAngle : Angle
  /-- `req_acc`. -/
  reqAcc : Acc
deriving DecidableEq, Repr

/-- What the unit drives (10_state.md R23 to R25). A port that carries no meaning is none: `resp_result` while
`resp_valid = 0`, `result_o` while `RESULT` holds no value. -/
structure PortOut where
  /-- `req_ready`. -/
  reqReady : Bool
  /-- `resp_valid`. -/
  respValid : Bool
  /-- `resp_result`. -/
  respResult : Option Res
  /-- `fault_o`. -/
  faultO : Bool
  /-- `cause_o`. -/
  causeO : BitVec 2
  /-- `valid_o`. -/
  validO : Bool
  /-- `result_o`. -/
  resultO : Option Res
deriving DecidableEq, Repr

/-- The three operand fields together, sampled in one cycle (10_state.md R23, 20_memory.md R40). -/
def portReq (inp : PortIn) : ReqWord := packReq inp.reqOp inp.reqAngle inp.reqAcc

/-- A new cycle: every request in flight is one cycle nearer its response, and no response is delivered yet. -/
def tick (s : State) : State :=
  { s with resp := none, inFlight := s.inFlight.map fun f => { f with left := f.left - 1 } }

/-- Answer the oldest request in flight if its response is due this cycle (10_state.md R24). -/
def answerDue (s : State) : Host.Outcome State Fault Refusal :=
  match s.inFlight with
  | f :: fs => if f.left = 0 then perform f.req { s with inFlight := fs } else .next s
  | [] => .next s

/-- Accept a request: it is in flight for `LATENCY` cycles (10_state.md R24, R33). -/
def enqueue (p : Params) (req : ReqWord) (s : State) : State :=
  { s with inFlight := s.inFlight ++ [{ req := req, left := p.latency }] }

/-- `req_ready` in a cycle: `FAULT = 0` and `rst = 0` (10_state.md R23), where a fault raised in this cycle by an older
request already counts (95_test_vectors.md P6, cycle 3). -/
def reqReady (inp : PortIn) (s : State) : Bool :=
  match answerDue (tick s) with
  | .next s' => !inp.rst && accepts s'
  | _ => false

/-- A cycle that is the unit's first reset and presents a request: the request comes before the first reset, which has no move
(70_reset_and_hazards.md R122, R114). -/
def presentsInFirstReset (inp : PortIn) (s : State) : Bool := inp.rst && inp.reqValid && !s.wasReset

/-- One clock cycle. Reset has the whole cycle (70_reset_and_hazards.md R110). Otherwise the response that is due is
delivered, then a request is accepted if `req_valid` and `req_ready`, and with `LATENCY = 0` it is answered in this same
cycle (10_state.md R24). -/
def cycle (p : Params) (inp : PortIn) (s : State) : Host.Outcome State Fault Refusal :=
  if presentsInFirstReset inp s then .refused .neverReset
  else if inp.rst then .next (applyReset s)
  else
    match noMove s with
    | some r => .refused r
    | none =>
      andThen (answerDue (tick s)) fun s' =>
        if inp.reqValid && accepts s' then
          if p.latency = 0 then answerDue (enqueue p (portReq inp) s')
          else .next (enqueue p (portReq inp) s')
        else .next s'

/-- A unit and the request that stands at its port. -/
structure Port where
  /-- The unit. -/
  unit : State
  /-- The request presented in the cycle before and not accepted, which "stays pending at the port" (60_exceptions.md R98); none
  where the host presented none or it was accepted. -/
  waiting : Option ReqWord
deriving DecidableEq, Repr

/-- Right after reset no request waits. -/
def Port.reset : Port := { unit := State.reset, waiting := none }

/-- The input presents other fields than the request that waits. The host may withdraw that request (notes/assumptions/20.md). -/
def changesRequest (inp : PortIn) (waiting : Option ReqWord) : Bool :=
  match waiting with
  | some req => inp.reqValid && portReq inp != req
  | none => false

/-- The request that waits after a cycle: presented in it, and not accepted (10_state.md R23, 60_exceptions.md R98). That one
presented in a cycle with `rst = 1` waits as well is a DESIGN CHOICE (notes/assumptions/20.md). -/
def waitingAfter (inp : PortIn) (s : State) : Option ReqWord :=
  if inp.reqValid && !reqReady inp s then some (portReq inp) else none

/-- One clock cycle at the port. A host that changes a request's fields between presenting it and its acceptance has no move
(70_reset_and_hazards.md R122), not even in a cycle with `rst = 1`. -/
def portCycle (p : Params) (inp : PortIn) (x : Port) : Host.Outcome Port Fault Refusal :=
  if changesRequest inp x.waiting then .refused .requestChanged
  else andThen (cycle p inp x.unit) fun t => .next { unit := t, waiting := waitingAfter inp x.unit }

/-- The cycles of a list of inputs, in order. -/
def cycles (p : Params) : List PortIn → Port → Host.Outcome Port Fault Refusal
  | [], x => .next x
  | inp :: rest, x => andThen (portCycle p inp x) (cycles p rest)

/-- The outputs at the end of a cycle whose input was `inp`, begun in `s` and ended in `s'` (10_state.md R25). -/
def portOut (inp : PortIn) (s s' : State) : PortOut where
  reqReady := reqReady inp s
  respValid := s'.resp.isSome
  respResult := s'.resp
  faultO := s'.fault
  causeO := s'.cause
  validO := s'.valid
  resultO := s'.result

end Sys2Proof.Machine
end

