-- ==== Sys2Proof/Machine/Platform.lean ====
section
/-! DEFINITION. Several instances on one platform (20_memory.md R43, 60_exceptions.md R108): they share no state. -/

namespace Sys2Proof.Machine

/-- A step of the unit at position `k` of the platform's list of units; where there is no such unit, nothing happens. -/
def stepUnit (units : List State) (k : Nat) : Host.Outcome (List State) Fault Refusal :=
  match units[k]? with
  | none => .next units
  | some s =>
    match step s with
    | .next s' => .next (units.set k s')
    | .fault r => .fault r
    | .refused r => .refused r

end Sys2Proof.Machine
end

