-- ==== Sys2Proof/Machine/Widths.lean ====
section
/-! DEFINITION. The minimum internal widths of 00_scope.md R10. The operations compute on unbounded integers (R12) and need
none of them; what is said here is that the hardware's datapath holds every value that they compute. -/

namespace Sys2Proof.Machine

/-- `v` is a number of `n` bits unsigned. -/
def fitsUnsigned (n : Nat) (v : Int) : Prop := 0 ≤ v ∧ v < 2 ^ n

/-- `v` is a number of `n` bits two's complement. -/
def fitsSigned (n : Nat) (v : Int) : Prop := minOf n ≤ v ∧ v ≤ maxOf n

/-- The powers x2 to x8 (41_sine.md R74, 42_cosine.md R86). -/
def powersOf (x1 : Int) : List Int :=
  [powX2 x1, sinX3 x1, cosX4 x1, sinX5 x1, cosX6 x1, sinX7 x1, cosX8 x1]

/-- The products of two powers, before their shift. -/
def powProductsOf (x1 : Int) : List Int :=
  [x1 * x1, powX2 x1 * x1, powX2 x1 * powX2 x1, sinX3 x1 * powX2 x1, cosX4 x1 * powX2 x1, sinX5 x1 * powX2 x1,
    cosX4 x1 * cosX4 x1]

/-- The products of a constant and a power, before their shift (41_sine.md R75, 42_cosine.md R87). -/
def termProductsOf (x1 : Int) : List Int :=
  [coeffs.k1 * x1, coeffs.k2 * powX2 x1, coeffs.k3 * sinX3 x1, coeffs.k4 * cosX4 x1, coeffs.k5 * sinX5 x1,
    coeffs.k6 * cosX6 x1, coeffs.k7 * sinX7 x1, coeffs.k8 * cosX8 x1]

/-- The sine terms (41_sine.md R75). -/
def sinTermsOf (x1 : Int) : List Int := [sinT1 x1, sinT3 x1, sinT5 x1, sinT7 x1]

/-- The cosine terms (42_cosine.md R87). -/
def cosTermsOf (x1 : Int) : List Int := [cosT2 x1, cosT4 x1, cosT6 x1, cosT8 x1]

/-- What the accumulator holds, in the order t1 - t3 + t5 - t7: the last is the final sine sum (41_sine.md R76). -/
def sinPartialsOf (x1 : Int) : List Int :=
  [sinT1 x1, sinT1 x1 - sinT3 x1, sinT1 x1 - sinT3 x1 + sinT5 x1, sinSum x1]

/-- What the accumulator holds, in the order 2^18 - t2 + t4 - t6 + t8: the last is the final cosine sum (42_cosine.md R88). -/
def cosPartialsOf (x1 : Int) : List Int :=
  [2 ^ 18, 2 ^ 18 - cosT2 x1, 2 ^ 18 - cosT2 x1 + cosT4 x1, 2 ^ 18 - cosT2 x1 + cosT4 x1 - cosT6 x1, cosSum x1]

/-- Every value that SIN and COS compute from `angle` fits the width that 00_scope.md R10 gives it, row by row. -/
structure DatapathFits (angle : Angle) : Prop where
  /-- The reduced argument x1: 18 bits unsigned. -/
  argument : fitsUnsigned 18 (fold angle)
  /-- The powers: 18 bits unsigned each. -/
  powers : ∀ x ∈ powersOf (fold angle), fitsUnsigned 18 x
  /-- "two 18-bit unsigned operands multiplied into a 36-bit product": the products of two powers. -/
  powProducts : ∀ v ∈ powProductsOf (fold angle), fitsUnsigned 36 v
  /-- The products k·x before their shift: 36 bits unsigned. -/
  termProducts : ∀ v ∈ termProductsOf (fold angle), fitsUnsigned 36 v
  /-- The sine terms: 19 bits unsigned. -/
  sinTerms : ∀ t ∈ sinTermsOf (fold angle), fitsUnsigned 19 t
  /-- The cosine terms: 19 bits unsigned. -/
  cosTerms : ∀ t ∈ cosTermsOf (fold angle), fitsUnsigned 19 t
  /-- The sine partial sums: 20 bits signed. -/
  sinPartials : ∀ v ∈ sinPartialsOf (fold angle), fitsSigned 20 v
  /-- The cosine partial sums: 20 bits signed. -/
  cosPartials : ∀ v ∈ cosPartialsOf (fold angle), fitsSigned 20 v
  /-- The values handed to the clamp by SIN and COS: 19 bits signed. -/
  clamped : fitsSigned 19 (sinY angle) ∧ fitsSigned 19 (cosY angle)

end Sys2Proof.Machine
end

