-- ==== Sys2Proof/Safety.lean ====
section
/-! DEFINITION. The terms the claims are stated in: the outcome of a request, the invariants, the ends of a run, and the
view of a unit with requests in flight as one that answers at acceptance. -/

namespace Sys2Proof.Machine

/-- The `outcome` of a request (10_state.md R34): its result pattern, or the cause of its fault. It reads nothing but the
request word. -/
def outcomeOf (req : ReqWord) : Except FaultCause Res :=
  match decode req with
  | .instr (.sin angle _) => sinOp angle
  | .instr (.cos angle _) => cosOp angle
  | .instr (.clamp _ acc) => clampOp acc
  | .rejected .reservedOp => .error .illegalOp

/-- The invariant of the architectural state (10_state.md R26 to R29, 60_exceptions.md R97, R98, R100). -/
structure Inv (s : State) : Prop where
  /-- `VALID = 1` exactly when `RESULT` holds a value (R27). -/
  valid_iff : s.valid = s.result.isSome
  /-- `CAUSE = 0` exactly when `FAULT = 0` (R29). -/
  cause_iff : s.cause = 0 ↔ s.fault = false
  /-- `CAUSE = 3` is never written (R29). -/
  cause_legal : s.cause ≠ 3
  /-- A fault clears `VALID` (R97). -/
  fault_invalid : s.fault = true → s.valid = false
  /-- Nothing is in flight in the fault state (R100). -/
  fault_empty : s.fault = true → s.inFlight = []
  /-- The value on `resp_result` is the one in `RESULT` (R26). -/
  resp_result : ∀ r, s.resp = some r → s.result = some r

/-- The invariant of the cycles with parameters `p`: each request in flight is due in 1 to `LATENCY` cycles, no two in the
same cycle, in acceptance order (10_state.md R24, 70_reset_and_hazards.md R119). -/
structure CycleInv (p : Params) (s : State) : Prop where
  arch : Inv s
  ordered : s.inFlight.Pairwise fun f g => f.left < g.left
  bounded : ∀ f ∈ s.inFlight, 0 < f.left ∧ f.left ≤ p.latency

/-- The host's input is one that R122 of 70_reset_and_hazards.md gives a move: no request before or in the cycle of the first reset, and
no waiting request changed. -/
def hostMayDrive (inp : PortIn) (x : Port) : Prop :=
  inp.reqValid = true → x.unit.wasReset = true ∧ (x.waiting = none ∨ x.waiting = some (portReq inp))

/-- A request is left pending at the port while `FAULT = 1` (70_reset_and_hazards.md R118, R121). -/
def stuck (s : State) : Prop := s.fault = true ∧ ∃ req rest, s.host = .present req :: rest

/-- A run ends when every accepted request has its response, or when a fault has been raised
(70_reset_and_hazards.md R121).

DESIGN CHOICE (unsafe), where R121 is silent on a reset inside a run: the present state alone is read. A request that a reset
discarded (R111) is no longer waited for, so the run counts as ended although it had no response, and a fault that a reset
cleared is not remembered (notes/assumptions/19.md). -/
def runEnded (s : State) : Prop := s.fault = true ∨ (s.inFlight = [] ∧ s.host = [])

/-- A run that ends with `FAULT = 1` is never a successful end (70_reset_and_hazards.md R121).

DESIGN CHOICE (unsafe), where R121 "does not say ... anything about a unit that was never reset": `wasReset` is not read, here and
in `runEnded`, so an idle unit that was never reset and has `FAULT = 0` counts as a successful end
(notes/assumptions/18.md). A reset inside the run counts as in `runEnded` (notes/assumptions/19.md). -/
def successfulEnd (s : State) : Prop := runEnded s ∧ s.fault = false

/-- The architectural fields `(RESULT, VALID, FAULT, CAUSE)` of 10_state.md R34. -/
structure Arch where
  result : Option Res
  valid : Bool
  fault : Bool
  cause : BitVec 2
deriving DecidableEq, Repr

/-- The architectural fields of a state. -/
def archOf (s : State) : Arch where
  result := s.result
  valid := s.valid
  fault := s.fault
  cause := s.cause

/-- What the transaction step of 10_state.md R34 does to the architectural fields. -/
def archStep (a : Arch) (req : ReqWord) : Arch :=
  if a.fault then a
  else
    match outcomeOf req with
    | .ok r => { a with result := some r, valid := true }
    | .error c => { result := none, valid := false, fault := true, cause := causeCode c }

/-- The architectural fields once every request in flight is answered, oldest first (10_state.md R33). -/
def settled (s : State) : Arch := (s.inFlight.map (·.req)).foldl archStep (archOf s)

/-- The responses that a unit which accepts `reqs` from the architectural fields `a` delivers, in order
(10_state.md R24, 60_exceptions.md R98, R100). -/
def answers (a : Arch) : List ReqWord → List Res
  | [] => []
  | req :: rest =>
    if a.fault then []
    else
      match outcomeOf req with
      | .ok r => r :: answers (archStep a req) rest
      | .error _ => []

/-- The responses still to come from the requests in flight. -/
def pendingAnswers (s : State) : List Res := answers (archOf s) (s.inFlight.map (·.req))

end Sys2Proof.Machine
end

