-- ==== Sys2Proof/Certificates/Slice0/Obligations.lean ====
section
/-! DEFINITION. The statements for the provers. Each says in its docstring which sentence of the spec it formalises, or that it
rests on a choice of the model. -/

open Sys2Proof Sys2Proof.Machine

-- ## Encoding

/-- Words written out from 30_encoding.md R49 and R52 (the REQ columns of 95_test_vectors.md) decode to the operation each
stands for, and both reserved words are rejected by name. -/
def Obligations.SampleWordsDecode : Prop :=
  decode 0x00000000080000 = .instr (.sin 0x20000 0) ∧
  decode 0x3FFFFFFFC20000 = .instr (.sin 0x08000 0xFFFFFFFF) ∧
  decode 0x000000000AAAAD = .instr (.cos 0x2AAAB 0) ∧
  decode 0x048D159E020001 = .instr (.cos 0x08000 0x12345678) ∧
  decode 0x3FFF7FFFC00002 = .instr (.clamp 0 0xFFFDFFFF) ∧
  decode 0x3FFFFFFFFFFFFE = .instr (.clamp 0xFFFFF 0xFFFFFFFF) ∧
  decode 0x00000000000003 = .rejected .reservedOp ∧
  decode 0x3FFFFFFFFFFFFF = .rejected .reservedOp

/-- Decoding the request word of any operation gives it back, with both operand fields at every value (R49, R52). -/
def Obligations.DecodeInvertsEncode : Prop :=
  ∀ i : Instr, decode (encode i) = .instr i

/-- A word that decodes to an operation is that operation's request word: no word has a second reading (R49, R52). -/
def Obligations.EncodeInvertsDecode : Prop :=
  ∀ (req : ReqWord) (i : Instr), decode req = .instr i → encode i = req

/-- R56: every request word decodes to exactly one of SIN, COS, CLAMP or the reserved encoding, and which one is its number
modulo 4 (R50, R52); the operand fields are bits 21:2 and 53:22 (R49). -/
def Obligations.DecoderIsTotal : Prop :=
  ∀ req : ReqWord,
    let angle : Angle := BitVec.ofNat 20 (req.toNat / 2 ^ 2)
    let acc : Acc := BitVec.ofNat 32 (req.toNat / 2 ^ 22)
    (req.toNat % 4 = 0 → decode req = .instr (.sin angle acc)) ∧
    (req.toNat % 4 = 1 → decode req = .instr (.cos angle acc)) ∧
    (req.toNat % 4 = 2 → decode req = .instr (.clamp angle acc)) ∧
    (req.toNat % 4 = 3 → decode req = .rejected .reservedOp)

/-- R51 and R59: a written request whose operand is in range assembles to a word that decodes to it, with the ignored field
0; an operand out of range is refused, never masked, and so is presenting it (93_implementation_defined.md I1). Presenting a
request in range puts its word at the end of the host's sequence and changes nothing else (the sequence is the model's,
notes/assumptions/3.md). -/
def Obligations.AssemblyRefusesOutOfRangeOperands : Prop :=
  (∀ n : Nat, (n < 2 ^ 20 → ∃ req a, assemble (.sin n) = some req ∧ decode req = .instr (.sin a 0) ∧ a.toNat = n) ∧
    (2 ^ 20 ≤ n → assemble (.sin n) = none)) ∧
  (∀ n : Nat, (n < 2 ^ 20 → ∃ req a, assemble (.cos n) = some req ∧ decode req = .instr (.cos a 0) ∧ a.toNat = n) ∧
    (2 ^ 20 ≤ n → assemble (.cos n) = none)) ∧
  (∀ v : Int, (-2 ^ 31 ≤ v ∧ v < 2 ^ 31 →
      ∃ req c, assemble (.clamp v) = some req ∧ decode req = .instr (.clamp 0 c) ∧ c.toInt = v) ∧
    (¬ (-2 ^ 31 ≤ v ∧ v < 2 ^ 31) → assemble (.clamp v) = none)) ∧
  (∀ n : Nat, (n < 2 ^ 54 → ∃ req, assemble (.word n) = some req ∧ req.toNat = n) ∧
    (2 ^ 54 ≤ n → assemble (.word n) = none)) ∧
  (∀ (r : Written) (s : State),
    (assemble r = none → presentWritten r s = .refused .operandOutOfRange) ∧
    (∀ req, assemble r = some req → presentWritten r s = .next { s with host := s.host ++ [.present req] }))

-- ## The clamp

/-- R61: the clamp as the source's contract has it, for every width `w ≥ 2`. Where bits `w` and `w-1` differ, an extreme by
bit `w`; where they agree, the value itself, if it fits in `w` bits, and else the fault. -/
def Obligations.ClampIsTwoBitWindowTest : Prop :=
  ∀ (w : Nat) (v : Int), 2 ≤ w →
    clampTo w v =
      if v / 2 ^ w % 2 ≠ v / 2 ^ (w - 1) % 2 then
        .ok (if v / 2 ^ w % 2 = 1 then -2 ^ (w - 1) else 2 ^ (w - 1) - 1)
      else if -2 ^ (w - 1) ≤ v ∧ v < 2 ^ (w - 1) then .ok v
      else .error .clampPost

/-- R62 and R63: under the precondition that the value fits in `w + 1` bits, the clamp saturates by range and never faults. -/
def Obligations.ClampUnderPrecondition : Prop :=
  ∀ (w : Nat) (v : Int), 2 ≤ w → -2 ^ w ≤ v → v < 2 ^ w →
    (-2 ^ (w - 1) ≤ v ∧ v < 2 ^ (w - 1) → clampTo w v = .ok v) ∧
    (2 ^ (w - 1) ≤ v → clampTo w v = .ok (2 ^ (w - 1) - 1)) ∧
    (v < -2 ^ (w - 1) → clampTo w v = .ok (-2 ^ (w - 1)))

/-- R62: outside the precondition the clamp is not a range clamp: just above it an extreme of the wrong sign, at every width. -/
def Obligations.ClampDiffersFromRangeClamp : Prop :=
  ∀ w : Nat, 2 ≤ w →
    clampTo w (2 ^ w) = .ok (-2 ^ (w - 1)) ∧ clampTo w (-2 ^ w - 1) = .ok (2 ^ (w - 1) - 1)

/-- R64: CLAMP_POST is raised exactly when bits `w` and `w-1` agree and the value does not fit; at width 18 the fault values
nearest zero are 393216 and -393217, 524288 faults too, and no angle reaches it through SIN or COS. -/
def Obligations.ClampFaultCondition : Prop :=
  (∀ (w : Nat) (v : Int), 2 ≤ w →
    (clampTo w v = .error .clampPost ↔
      v / 2 ^ w % 2 = v / 2 ^ (w - 1) % 2 ∧ ¬ (-2 ^ (w - 1) ≤ v ∧ v < 2 ^ (w - 1)))) ∧
  clampTo 18 393216 = .error .clampPost ∧ clampTo 18 (-393217) = .error .clampPost ∧
  clampTo 18 524288 = .error .clampPost ∧
  (∀ v : Int, -393217 < v → v < 393216 → clampTo 18 v ≠ .error .clampPost) ∧
  (∀ angle : Angle, sinOp angle ≠ .error .clampPost ∧ cosOp angle ≠ .error .clampPost)

/-- R67: the four laws of `CLAMP18`: identity, saturation that is monotone with exactly the 18-bit range as image, no fault
under the precondition, and the asymmetry at 131072. -/
def Obligations.ClampLaws : Prop :=
  (∀ v : Int, -131072 ≤ v → v ≤ 131071 → clampTo 18 v = .ok v) ∧
  (∀ v v' c c' : Int, -262144 ≤ v → v ≤ v' → v' ≤ 262143 → clampTo 18 v = .ok c → clampTo 18 v' = .ok c' → c ≤ c') ∧
  (∀ c : Int, (∃ v, -262144 ≤ v ∧ v ≤ 262143 ∧ clampTo 18 v = .ok c) ↔ -131072 ≤ c ∧ c ≤ 131071) ∧
  (∀ v : Int, -262144 ≤ v → v ≤ 262143 → ∃ c, clampTo 18 v = .ok c) ∧
  clampTo 18 131072 = .ok 131071 ∧ clampTo 18 (-131072) = .ok (-131072)

/-- R66: every row of the table of corner cases. -/
def Obligations.ClampCornerCases : Prop :=
  clampOp 0x00000000 = .ok 0x00000 ∧ clampOp 0x0001FFFF = .ok 0x1FFFF ∧ clampOp 0x00020000 = .ok 0x1FFFF ∧
  clampOp 0x0003FFFF = .ok 0x1FFFF ∧ clampOp 0x00040000 = .ok 0x20000 ∧ clampOp 0x0005FFFF = .ok 0x20000 ∧
  clampOp 0x00060000 = .error .clampPost ∧ clampOp 0x00080000 = .error .clampPost ∧
  clampOp 0x7FFFFFFF = .error .clampPost ∧ clampOp 0xFFFFFFFF = .ok 0x3FFFF ∧ clampOp 0xFFFE0000 = .ok 0x20000 ∧
  clampOp 0xFFFDFFFF = .ok 0x20000 ∧ clampOp 0xFFFC0000 = .ok 0x20000 ∧ clampOp 0xFFFBFFFF = .ok 0x1FFFF ∧
  clampOp 0xFFFA0000 = .ok 0x1FFFF ∧ clampOp 0xFFF9FFFF = .error .clampPost ∧ clampOp 0x80000000 = .error .clampPost

/-- R65: the CLAMP operation, whatever `angle` holds. With bits 18 and 17 of `acc` different it answers the extreme of bit
18's sign; with `acc` in the 18-bit range it answers the low 18 bits of `acc`; it then writes `RESULT` and `VALID`, delivers
the response, and changes nothing else. Otherwise, the two bits equal and `acc` outside the range, it enters the fault
CLAMP_POST, cause 1 (R97), and discards what is in flight. -/
def Obligations.ClampCompletesOrFaults : Prop :=
  ∀ (angle : Angle) (acc : Acc) (s : State),
    (acc.getLsbD 18 = true → acc.getLsbD 17 = false →
      exec (.clamp angle acc) s = .next { s with result := some 0x20000, valid := true, resp := some 0x20000 }) ∧
    (acc.getLsbD 18 = false → acc.getLsbD 17 = true →
      exec (.clamp angle acc) s = .next { s with result := some 0x1FFFF, valid := true, resp := some 0x1FFFF }) ∧
    (-131072 ≤ acc.toInt → acc.toInt < 131072 →
      exec (.clamp angle acc) s =
        .next { s with result := some (acc.setWidth 18), valid := true, resp := some (acc.setWidth 18) }) ∧
    (acc.getLsbD 18 = acc.getLsbD 17 → ¬ (-131072 ≤ acc.toInt ∧ acc.toInt < 131072) →
      exec (.clamp angle acc) s =
        .next { s with fault := true, cause := 1, valid := false, result := none, resp := none, inFlight := [] })

-- ## Sine and cosine

/-- R80 (with R70 to R79): SIN completes for every angle, with the value of the rule's pseudocode, written here on natural
numbers from the angle's number; the clamp saturates by range, since no angle leaves its precondition. It writes `RESULT`
and `VALID`, delivers the response, and changes nothing else, whatever `acc` holds. -/
def Obligations.SinCompletesWithPolynomial : Prop :=
  ∀ (angle : Angle) (acc : Acc) (s : State),
    let a := angle.toNat
    let lo := a % 2 ^ 18
    let x1 := if a / 2 ^ 18 % 2 = 1 then (2 ^ 18 - lo) % 2 ^ 18 else lo
    let x2 := x1 * x1 / 2 ^ 18
    let x3 := x2 * x1 / 2 ^ 18
    let x5 := x3 * x2 / 2 ^ 18
    let x7 := x5 * x2 / 2 ^ 18
    let t1 : Int := ((205887 * x1 / 2 ^ 17 : Nat) : Int)
    let t3 : Int := ((169336 * x3 / 2 ^ 18 : Nat) : Int)
    let t5 : Int := ((167014 * x5 / 2 ^ 21 : Nat) : Int)
    let t7 : Int := ((150000 * x7 / 2 ^ 25 : Nat) : Int)
    let half := (t1 - t3 + t5 - t7) / 2
    let peaked := if x1 = 0 ∧ a / 2 ^ 18 % 2 = 1 then 131072 else half
    let y := if a / 2 ^ 19 % 2 = 1 then -peaked else peaked
    let r : Res := BitVec.ofInt 18 (max (-131072) (min 131071 y))
    exec (.sin angle acc) s = .next { s with result := some r, valid := true, resp := some r }

/-- R91 (with R83 to R90): COS completes for every angle, with the value of the rule's pseudocode, written here on natural
numbers from the angle's number. It writes `RESULT` and `VALID`, delivers the response, and changes nothing else, whatever
`acc` holds. -/
def Obligations.CosCompletesWithPolynomial : Prop :=
  ∀ (angle : Angle) (acc : Acc) (s : State),
    let a := angle.toNat
    let lo := a % 2 ^ 18
    let x1 := if a / 2 ^ 18 % 2 = 1 then (2 ^ 18 - lo) % 2 ^ 18 else lo
    let x2 := x1 * x1 / 2 ^ 18
    let x4 := x2 * x2 / 2 ^ 18
    let x6 := x4 * x2 / 2 ^ 18
    let x8 := x4 * x4 / 2 ^ 18
    let t2 : Int := ((161704 * x2 / 2 ^ 17 : Nat) : Int)
    let t4 : Int := ((132996 * x4 / 2 ^ 19 : Nat) : Int)
    let t6 : Int := ((175016 * x6 / 2 ^ 23 : Nat) : Int)
    let t8 : Int := ((241700 * x8 / 2 ^ 28 : Nat) : Int)
    let half := (262144 - t2 + t4 - t6 + t8) / 2
    let zeroed := if x1 = 0 ∧ a / 2 ^ 18 % 2 = 1 then 0 else half
    let y := if a / 2 ^ 19 % 2 = a / 2 ^ 18 % 2 then zeroed else -zeroed
    let r : Res := BitVec.ofInt 18 (max (-131072) (min 131071 y))
    exec (.cos angle acc) s = .next { s with result := some r, valid := true, resp := some r }

/-- The corner cases and the example of R80, with the two quarter-turn points of 90_conflicts.md C1 (131071, not 131072) and
R82's first place where SIN falls. -/
def Obligations.SinCornerCases : Prop :=
  sinOp 0x00000 = .ok 0x00000 ∧ sinOp 0x00001 = .ok 0x00000 ∧ sinOp 0x00002 = .ok 0x00001 ∧
  sinOp 0x20000 = .ok 0x16A09 ∧ sinOp 0x3FE19 = .ok 0x1FFFF ∧ sinOp 0x40000 = .ok 0x1FFFF ∧
  sinOp 0x80000 = .ok 0x00000 ∧ sinOp 0x80002 = .ok 0x3FFFF ∧ sinOp 0xBFE19 = .ok 0x20000 ∧
  sinOp 0xBFFFF = .ok 0x20001 ∧ sinOp 0xC0000 = .ok 0x20000 ∧ sinOp 0xFFFFF = .ok 0x00000 ∧
  sinOp 0x20681 = .ok 0x16DA2 ∧ sinOp 0x20682 = .ok 0x16DA1

/-- The corner cases and the example of R91; and R93's COS that is no shifted SIN, at 0x10000 (95_test_vectors.md P5),
and that rises at 0x20540. -/
def Obligations.CosCornerCases : Prop :=
  cosOp 0x00000 = .ok 0x1FFFF ∧ cosOp 0x2AAAB = .ok 0x10000 ∧ cosOp 0x3FFFF = .ok 0x00001 ∧
  cosOp 0x40000 = .ok 0x00000 ∧ cosOp 0x40001 = .ok 0x3FFFF ∧ cosOp 0x80000 = .ok 0x20000 ∧
  cosOp 0xC0000 = .ok 0x00000 ∧ cosOp 0xFFFFF = .ok 0x1FFFF ∧
  cosOp 0x10000 = .ok 0x1D906 ∧ sinOp 0x50000 = .ok 0x1D907 ∧
  cosOp 0x20540 = .ok 0x1671C ∧ cosOp 0x20541 = .ok 0x1671D

/-- 00_scope.md R10: over all reduced arguments every power fits in 18 bits unsigned, every product of two powers and every
product of a constant fits in 36 bits unsigned before its shift, and the terms stay within the maxima of the table. The
table's 53971835841 is the maximum of k1·x1 alone; other products are larger (k8·x8 reaches 63358271200) and fit as well. -/
def Obligations.DatapathFitsItsWidths : Prop :=
  ∀ x1 : Int, 0 ≤ x1 → x1 < 2 ^ 18 →
    (0 ≤ powX2 x1 ∧ powX2 x1 ≤ 262142) ∧
    (0 ≤ sinX3 x1 ∧ sinX3 x1 < 2 ^ 18) ∧ (0 ≤ sinX5 x1 ∧ sinX5 x1 < 2 ^ 18) ∧ (0 ≤ sinX7 x1 ∧ sinX7 x1 < 2 ^ 18) ∧
    (0 ≤ cosX4 x1 ∧ cosX4 x1 < 2 ^ 18) ∧ (0 ≤ cosX6 x1 ∧ cosX6 x1 < 2 ^ 18) ∧ (0 ≤ cosX8 x1 ∧ cosX8 x1 ≤ 262136) ∧
    (∀ prod ∈ [x1 * x1, powX2 x1 * x1, sinX3 x1 * powX2 x1, sinX5 x1 * powX2 x1,
        powX2 x1 * powX2 x1, cosX4 x1 * powX2 x1, cosX4 x1 * cosX4 x1], 0 ≤ prod ∧ prod < 2 ^ 36) ∧
    (∀ prod ∈ [coeffs.k1 * x1, coeffs.k2 * powX2 x1, coeffs.k3 * sinX3 x1, coeffs.k4 * cosX4 x1,
        coeffs.k5 * sinX5 x1, coeffs.k6 * cosX6 x1, coeffs.k7 * sinX7 x1, coeffs.k8 * cosX8 x1],
      0 ≤ prod ∧ prod < 2 ^ 36) ∧
    coeffs.k1 * x1 ≤ 53971835841 ∧
    (0 ≤ sinT1 x1 ∧ sinT1 x1 ≤ 411772) ∧ (0 ≤ sinT3 x1 ∧ sinT3 x1 ≤ 169334) ∧
    (0 ≤ sinT5 x1 ∧ sinT5 x1 ≤ 20876) ∧ (0 ≤ sinT7 x1 ∧ sinT7 x1 ≤ 1171) ∧
    (0 ≤ cosT2 x1 ∧ cosT2 x1 ≤ 323405) ∧ (0 ≤ cosT4 x1 ∧ cosT4 x1 ≤ 66496) ∧
    (0 ≤ cosT6 x1 ∧ cosT6 x1 ≤ 5469) ∧ (0 ≤ cosT8 x1 ∧ cosT8 x1 ≤ 236)

/-- 00_scope.md R10's rows of sums, over all reduced arguments, in the order of the rules: the sine partial sums of two and of
three terms and the final one lie in [0, 263315] (the first term alone has its own row), the cosine partial sums in
[-61261, 262144], the final sine sum in [0, 262144] and the final cosine sum in [2, 262144]. -/
def Obligations.SumsStayInTheirRanges : Prop :=
  ∀ x1 : Int, 0 ≤ x1 → x1 < 2 ^ 18 →
    (∀ sum ∈ [sinT1 x1 - sinT3 x1, sinT1 x1 - sinT3 x1 + sinT5 x1, sinSum x1], 0 ≤ sum ∧ sum ≤ 263315) ∧
    (∀ sum ∈ [2 ^ 18 - cosT2 x1, 2 ^ 18 - cosT2 x1 + cosT4 x1, 2 ^ 18 - cosT2 x1 + cosT4 x1 - cosT6 x1, cosSum x1],
      -61261 ≤ sum ∧ sum ≤ 262144) ∧
    (0 ≤ sinSum x1 ∧ sinSum x1 ≤ 262144) ∧ (2 ≤ cosSum x1 ∧ cosSum x1 ≤ 262144)

/-- 00_scope.md R10's minimum widths: for every angle, every value that SIN and COS compute fits the width of its row, the reduced
argument and the value handed to the clamp among them. -/
def Obligations.EveryAngleFitsTheDatapath : Prop := ∀ angle : Angle, DatapathFits angle

/-- R82 (fold): `SIN(v) = SIN(2^19 - v)` for every v in [1, 2^19), and `SIN(v) = SIN(3·2^19 - v)` for every v in
(2^19, 2^20). -/
def Obligations.SinFoldSymmetry : Prop :=
  ∀ v : Nat,
    (1 ≤ v → v < 2 ^ 19 → sinOp (BitVec.ofNat 20 v) = sinOp (BitVec.ofNat 20 (2 ^ 19 - v))) ∧
    (2 ^ 19 < v → v < 2 ^ 20 → sinOp (BitVec.ofNat 20 v) = sinOp (BitVec.ofNat 20 (3 * 2 ^ 19 - v)))

/-- R82 (half-turn negation and odd): flipping `high0`, or taking 2^20 - v, negates the value handed to the clamp, and so
negates the result where that value is not at an extreme; at 131072 the two results are 131071 and -131072
(90_conflicts.md C3). -/
def Obligations.SinHalfTurnNegation : Prop :=
  ∀ v w : Angle, (w = v ^^^ 0x80000 ∨ (v ≠ 0 ∧ w = -v)) →
    sinY w = -sinY v ∧
    (-131072 < sinY v → sinY v < 131072 →
      ∃ r r', sinOp v = .ok r ∧ sinOp w = .ok r' ∧ r.toInt = sinY v ∧ r'.toInt = -r.toInt) ∧
    (sinY v = 131072 → sinOp v = .ok 0x1FFFF ∧ sinOp w = .ok 0x20000)

/-- R93 (even): `COS(2^20 - v) = COS(v)` for every v in [1, 2^20), with no exception. -/
def Obligations.CosIsEven : Prop :=
  ∀ v : Nat, 1 ≤ v → v < 2 ^ 20 → cosOp (BitVec.ofNat 20 (2 ^ 20 - v)) = cosOp (BitVec.ofNat 20 v)

/-- R93 (half-turn negation): flipping `high0` negates the value handed to the clamp, and so negates the result where that
value is not at an extreme; at 131072 the two results are 131071 and -131072 (90_conflicts.md C4). -/
def Obligations.CosHalfTurnNegation : Prop :=
  ∀ v : Angle,
    cosY (v ^^^ 0x80000) = -cosY v ∧
    (-131072 < cosY v → cosY v < 131072 →
      ∃ r r', cosOp v = .ok r ∧ cosOp (v ^^^ 0x80000) = .ok r' ∧ r.toInt = cosY v ∧ r'.toInt = -r.toInt) ∧
    (cosY v = 131072 → cosOp v = .ok 0x1FFFF ∧ cosOp (v ^^^ 0x80000) = .ok 0x20000)

/-- R81 and R82 (zeros): over all 2^20 angles the value SIN hands to the clamp lies in [-131072, 131072]. It is 131072 only within
[0x3FE19, 0x401E7], at exactly 133 angles: 66 of [0x3FE19, 0x3FFFF] and 67 of [0x40000, 0x401E7]. It is -131072 exactly half a
turn from those, and 0 exactly at six angles. -/
def Obligations.SinRangeExact : Prop :=
  (∀ v : Angle, -131072 ≤ sinY v ∧ sinY v ≤ 131072 ∧
    (sinY v = 131072 → 0x3FE19 ≤ v.toNat ∧ v.toNat ≤ 0x401E7) ∧
    (sinY v = -131072 → 0xBFE19 ≤ v.toNat ∧ v.toNat ≤ 0xC01E7) ∧
    (sinY v = -131072 ↔ sinY (v ^^^ 0x80000) = 131072) ∧
    (sinY v = 0 ↔ v ∈ [0x00000, 0x00001, 0x7FFFF, 0x80000, 0x80001, 0xFFFFF])) ∧
  ((List.range' 0x3FE19 487).countP fun n => sinY (BitVec.ofNat 20 n) == 131072) = 66 ∧
  ((List.range' 0x40000 488).countP fun n => sinY (BitVec.ofNat 20 n) == 131072) = 67

/-- R92 and R93 (zeros): over all 2^20 angles the value COS hands to the clamp lies in [-131072, 131072]; it is 131072 exactly
on the 1023 angles [0, 0x1FF] and [0xFFE01, 0xFFFFF], -131072 exactly on [0x7FE01, 0x801FF], and 0 exactly at 0x40000 and
0xC0000. -/
def Obligations.CosRangeExact : Prop :=
  ∀ v : Angle, -131072 ≤ cosY v ∧ cosY v ≤ 131072 ∧
    (cosY v = 131072 ↔ v.toNat ≤ 0x1FF ∨ 0xFFE01 ≤ v.toNat) ∧
    (cosY v = -131072 ↔ 0x7FE01 ≤ v.toNat ∧ v.toNat ≤ 0x801FF) ∧
    (cosY v = 0 ↔ v = 0x40000 ∨ v = 0xC0000)

/-- R53: the result and the state change are the same for every value of an ignored field. -/
def Obligations.IgnoredFieldsHaveNoEffect : Prop :=
  ∀ (s : State) (angle angle' : Angle) (acc acc' : Acc),
    exec (.sin angle acc) s = exec (.sin angle acc') s ∧
    exec (.cos angle acc) s = exec (.cos angle acc') s ∧
    exec (.clamp angle acc) s = exec (.clamp angle' acc) s

-- ## One request

/-- R94 and R34, the frame of every operation: an accepted request ends in one of two ways. Either a result: `RESULT`, `VALID`
and the response port are written with it, and `FAULT`, `CAUSE`, the requests in flight and everything else are unchanged.
Or, of CLAMP alone, the fault CLAMP_POST: `RESULT` and the response port hold no value, `VALID` is 0, `FAULT` 1, `CAUSE` 1,
nothing is in flight, and everything else is unchanged. -/
def Obligations.RequestFrame : Prop :=
  ∀ (i : Instr) (s t : State), exec i s = .next t →
    t.host = s.host ∧ t.wasReset = s.wasReset ∧
    ((∃ r, t.result = some r ∧ t.resp = some r ∧ t.valid = true ∧
        t.fault = s.fault ∧ t.cause = s.cause ∧ t.inFlight = s.inFlight) ∨
     ((∃ angle acc, i = .clamp angle acc) ∧ t.result = none ∧ t.resp = none ∧ t.valid = false ∧
        t.fault = true ∧ t.cause = 1 ∧ t.inFlight = []))

/-- R41: a request that completes without a fault is idempotent. -/
def Obligations.RequestIsIdempotent : Prop :=
  ∀ (i : Instr) (s t : State), exec i s = .next t → t.fault = false → exec i t = .next t

/-- R95, R96 and R99: the only faults are CLAMP_POST from a CLAMP request, under R64's condition on bits 18 and 17 of its
`acc` (cause 1), and ILLEGAL_OP from the reserved operation select (cause 2); a SIN or COS request always produces a result. -/
def Obligations.OnlyClampAndReservedFault : Prop :=
  causeCode .clampPost = 1 ∧ causeCode .illegalOp = 2 ∧ ∀ req : ReqWord,
    (outcomeOf req = .error .clampPost ↔
      req.toNat % 4 = 2 ∧ req.getLsbD 40 = req.getLsbD 39 ∧
        ¬ (-131072 ≤ (accField req).toInt ∧ (accField req).toInt < 131072)) ∧
    (outcomeOf req = .error .illegalOp ↔ req.toNat % 4 = 3) ∧
    (req.toNat % 4 = 0 ∨ req.toNat % 4 = 1 → ∃ r, outcomeOf req = .ok r)

-- ## The transaction step

/-- R34: a step runs the decoded request. When no reset is applied and the unit accepts requests, the step is `exec` of the
oldest request in flight, taken off the flight; or, with none in flight, of the request presented next, taken off the host's
sequence. That an older request in flight goes first is the model's reading of R24 and R33 (notes/assumptions/4.md). -/
def Obligations.StepRunsDecodedRequest : Prop :=
  ∀ (s : State) (i : Instr), s.wasReset = true → s.fault = false → s.cause ≠ 3 →
    (∀ req rest, s.host = .present req :: rest → s.inFlight = [] → decode req = .instr i →
      step s = exec i { s with host := rest }) ∧
    (∀ f fs, (∀ rest, s.host ≠ .applyReset :: rest) → s.inFlight = f :: fs → decode f.req = .instr i →
      step s = exec i { s with inFlight := fs })

/-- R54: accepting the reserved encoding raises ILLEGAL_OP, CAUSE 2, with no result, whatever `angle` and `acc` hold. -/
def Obligations.ReservedOpEntersFault : Prop :=
  ∀ (s : State) (req : ReqWord) (rest : List HostAction), req.toNat % 4 = 3 →
    s.wasReset = true → s.fault = false → s.cause ≠ 3 → s.inFlight = [] → s.host = .present req :: rest →
      step s = .next { s with
        fault := true, cause := 2, valid := false, result := none, resp := none, inFlight := [], host := rest }

/-- R97: what fault entry does. A step from `FAULT = 0` to `FAULT = 1` leaves `VALID = 0`, no value in `RESULT`, no response and
nothing in flight, with `CAUSE` 1 or 2. -/
def Obligations.FaultEntryState : Prop :=
  ∀ s t : State, step s = .next t → s.fault = false → t.fault = true →
    t.valid = false ∧ t.result = none ∧ t.resp = none ∧ t.inFlight = [] ∧ (t.cause = 1 ∨ t.cause = 2)

/-- R98: while `FAULT = 1` a request presented is not accepted and has no step, and without one the unit delivers no response
and keeps `FAULT` and `CAUSE`. The name of the stop is the model's (notes/assumptions/9.md). -/
def Obligations.FaultHaltsTheUnit : Prop :=
  ∀ s : State, s.wasReset = true → s.cause ≠ 3 → s.fault = true →
    (stuck s → step s = .fault .requestNotAccepted) ∧
    (s.host = [] → step s = .next { s with resp := none })

/-- R98 and R102: reset is the only exit from the fault state, in the step and in the clock cycle. -/
def Obligations.OnlyResetLeavesFault : Prop :=
  (∀ s t : State, step s = .next t → s.fault = true →
    (∃ rest, s.host = .applyReset :: rest) ∨ (t.fault = true ∧ t.cause = s.cause)) ∧
  (∀ (p : Params) (inp : PortIn) (s t : State), cycle p inp s = .next t → s.fault = true → s.inFlight = [] →
    inp.rst = true ∨ (t.fault = true ∧ t.cause = s.cause))

/-- R35: the reset value of every piece of state: `RESULT` holds no value, `VALID`, `FAULT` and `CAUSE` are 0, and no request is
in flight. -/
def Obligations.ResetValues : Prop :=
  State.reset.result = none ∧ State.reset.valid = false ∧ State.reset.fault = false ∧ State.reset.cause = 0 ∧
  State.reset.inFlight = []

/-- R110: applying reset from any state, even before the first reset, gives the reset state: at the port from every state, and by
the step from every state with nothing in flight (ResetComesBeforeRequestsInFlight has the others). While `rst = 1` no request
is accepted and no response is delivered. What the host does next is the host's. A request presented in the cycle of the
first reset has no move (R122, R114; NoMoveButReset). -/
def Obligations.ResetFromAnyState : Prop :=
  (∀ (s : State) (rest : List HostAction), s.inFlight = [] → s.host = .applyReset :: rest →
    step s = .next { State.reset with host := rest }) ∧
  (∀ (p : Params) (inp : PortIn) (s : State), inp.rst = true → (inp.reqValid = true → s.wasReset = true) →
    cycle p inp s = .next { State.reset with host := s.host } ∧ reqReady inp s = false)

/-- The step of a reset with requests in flight, where a reset comes before their responses by the model's DESIGN CHOICE
(notes/assumptions/4.md, unsafe): from every state, whatever is in flight, it gives the reset state, and nothing that was in
flight is answered. -/
def Obligations.ResetComesBeforeRequestsInFlight : Prop :=
  ∀ (s : State) (rest : List HostAction), s.host = .applyReset :: rest →
    step s = .next { State.reset with host := rest }

/-- 93_implementation_defined.md I7 and I9: before the first reset, and with the reserved `CAUSE = 3`, the only move is reset:
the step and the cycle refuse. A request presented before the first reset is refused even in the cycle of that reset (R122,
R114). The refusals' names are the model's (notes/assumptions/5.md). -/
def Obligations.NoMoveButReset : Prop :=
  ∀ s : State, (∀ rest, s.host ≠ .applyReset :: rest) →
    (s.wasReset = false → step s = .refused .neverReset ∧
      ∀ (p : Params) (inp : PortIn), inp.rst = false ∨ inp.reqValid = true → cycle p inp s = .refused .neverReset) ∧
    (s.wasReset = true → s.cause = 3 → step s = .refused .reservedCause ∧
      ∀ (p : Params) (inp : PortIn), inp.rst = false → cycle p inp s = .refused .reservedCause)

/-- The invariant of the architectural state holds at reset. -/
def Obligations.InvariantAtReset : Prop := Inv State.reset

/-- R26 to R29, R97 and R100 as one invariant: `VALID = 1` exactly when `RESULT` holds a value, `CAUSE = 0` exactly when
`FAULT = 0`, `CAUSE` is never 3, the fault state has `VALID = 0` and nothing in flight, and the response port shows `RESULT`.
Every step keeps it, from every state that has it. -/
def Obligations.StepKeepsInvariant : Prop :=
  ∀ s t : State, Inv s → step s = .next t → Inv t

/-- R36: the result of a request depends only on its operation and on the operand that operation reads. Two units in any two
states that accept requests, given words that agree on them, end with the same `RESULT`, `VALID`, `FAULT` and response, and
with the same `CAUSE` if one of them faults. -/
def Obligations.ResultDependsOnlyOnRequest : Prop :=
  ∀ (s s' t t' : State) (req req' : ReqWord) (rest rest' : List HostAction),
    s.host = .present req :: rest → s'.host = .present req' :: rest' →
    s.inFlight = [] → s'.inFlight = [] → s.fault = false → s'.fault = false →
    opField req = opField req' →
    (opField req = 0 ∨ opField req = 1 → angleField req = angleField req') →
    (opField req = 2 → accField req = accField req') →
    step s = .next t → step s' = .next t' →
      t.result = t'.result ∧ t.valid = t'.valid ∧ t.fault = t'.fault ∧ t.resp = t'.resp ∧
      (t.fault = true → t.cause = t'.cause)

/-- R42, R34 and R121: a run over a sequence of presented requests takes them in order. The k-th step answers the k-th request,
where none before it faults: it delivers that request's result, in `RESULT` with `VALID = 1`, or enters its fault, and the
requests after it are still to come. A run in which none faults has a successful end, with the architectural state of the
requests taken in order. -/
def Obligations.RunAnswersRequestsInOrder : Prop :=
  ∀ (reqs : List ReqWord) (s : State), s.wasReset = true → s.fault = false → s.cause ≠ 3 → s.inFlight = [] →
    s.host = reqs.map .present →
    (∀ (k : Nat) (req : ReqWord), reqs[k]? = some req → (∀ q ∈ reqs.take k, ∃ r, outcomeOf q = .ok r) →
      ∃ t, Host.Core.run Sys2Proof.core (k + 1) s = .next t ∧ t.host = (reqs.drop (k + 1)).map .present ∧
        (∀ r, outcomeOf req = .ok r → t.resp = some r ∧ t.result = some r ∧ t.valid = true ∧ t.fault = false) ∧
        (∀ c, outcomeOf req = .error c → t.resp = none ∧ t.valid = false ∧ t.fault = true ∧ t.cause = causeCode c)) ∧
    ((∀ req ∈ reqs, ∃ r, outcomeOf req = .ok r) →
      ∃ t, Host.Core.run Sys2Proof.core reqs.length s = .next t ∧
        archOf t = reqs.foldl archStep (archOf s) ∧ successfulEnd t)

-- ## The status outputs

/-- R30: the places of the fields of `STATUS[3:0]`. -/
def Obligations.StatusFieldPlaces : Prop :=
  ∀ s : State, (status s).getLsbD 0 = s.fault ∧ (status s).extractLsb' 1 2 = s.cause ∧ (status s).getLsbD 3 = s.valid

/-- R26, R27 and R36: in a state of the unit, `RESULT` can be read exactly while `VALID = 1`, with the value it holds; while
`VALID = 0` the read faults and returns no default. -/
def Obligations.ResultReadableWhileValid : Prop :=
  ∀ s : State, Inv s →
    (s.valid = true → ∃ r, s.result = some r ∧ readResult s = .ok r) ∧
    (s.valid = false → readResult s = .error .resultHasNoValue)

/-- R25 and R26: the status outputs of a cycle are the fields at its END, as levels; that they are read there, and not during the
cycle, is the model's DEDUCED reading (notes/assumptions/7.md, unsafe for levels inside one cycle). In a cycle with
`resp_valid = 1` the value on `resp_result` is the one in `RESULT`, with `VALID = 1` and `FAULT = 0`. -/
def Obligations.OutputsFollowTheState : Prop :=
  ∀ (p : Params) (inp : PortIn) (s t : State), CycleInv p s → cycle p inp s = .next t →
    (portOut inp s t).faultO = t.fault ∧ (portOut inp s t).causeO = t.cause ∧ (portOut inp s t).validO = t.valid ∧
    (portOut inp s t).resultO = t.result ∧
    ((portOut inp s t).respValid = true →
      (portOut inp s t).resultO = (portOut inp s t).respResult ∧ (portOut inp s t).validO = true ∧
      (portOut inp s t).faultO = false)

/-- R103: the interrupt of a platform that wires `fault_o` is pending exactly while `FAULT = 1`, and no other is raised; and in a
cycle that clears it, reset is applied. -/
def Obligations.FaultInterruptIsLevelSensitive : Prop :=
  ∀ (p : Params) (inp : PortIn) (s t : State),
    (faultIrqLevel p s = true ↔ p.faultIrq = true ∧ s.fault = true) ∧
    (Inv s → cycle p inp s = .next t → faultIrqLevel p s = true → faultIrqLevel p t = false → inp.rst = true)

-- ## Clock cycles

/-- R8: of the OPEN parameters only `LATENCY` reaches a cycle. -/
def Obligations.CycleDependsOnLatencyOnly : Prop :=
  ∀ (p p' : Params) (inp : PortIn) (s : State), p.latency = p'.latency → cycle p inp s = cycle p' inp s

/-- R23: in a cycle in which no older request is due, `req_ready = 1` exactly when `FAULT = 0` and `rst = 0`; a presented request
is then accepted, sampled whole, and is in flight for `LATENCY` cycles (stated for `LATENCY > 0`). -/
def Obligations.AcceptanceAtThePort : Prop :=
  ∀ (p : Params) (inp : PortIn) (s : State), (∀ f ∈ s.inFlight, 1 < f.left) →
    (reqReady inp s = true ↔ s.fault = false ∧ inp.rst = false) ∧
    (s.wasReset = true → s.cause ≠ 3 → 0 < p.latency → reqReady inp s = true → inp.reqValid = true →
      cycle p inp s = .next { s with
        resp := none
        inFlight := s.inFlight.map (fun f => { f with left := f.left - 1 }) ++
          [{ req := inp.reqAcc ++ inp.reqAngle ++ inp.reqOp, left := p.latency }] })

/-- R24 and R119: the invariant of the cycles, for every `LATENCY`. Each request in flight is due in 1 to `LATENCY` cycles, no two
in the same one, in acceptance order; and the architectural invariant holds. -/
def Obligations.CycleKeepsInvariant : Prop :=
  ∀ (p : Params) (inp : PortIn) (s t : State), CycleInv p s → cycle p inp s = .next t → CycleInv p t

/-- The invariant of the cycles holds at reset, for every `LATENCY`. -/
def Obligations.CycleInvariantAtReset : Prop := ∀ p : Params, CycleInv p State.reset

/-- R33 and R34: the unit with requests in flight is the unit that answers each request at acceptance. In every cycle without
reset, for every `LATENCY`: the architectural state once all in flight is answered changes by the transaction step of the
request presented (not at all when that state is faulted: the request is discarded, or not accepted); and the responses
still owed, with the new request's, are the one delivered now and then those still owed after. -/
def Obligations.CycleRefinesTransaction : Prop :=
  ∀ (p : Params) (inp : PortIn) (s : State), CycleInv p s → s.wasReset = true → inp.rst = false →
    ∃ t, cycle p inp s = .next t ∧
      (inp.reqValid = false →
        settled t = settled s ∧ pendingAnswers s = t.resp.toList ++ pendingAnswers t) ∧
      (inp.reqValid = true →
        settled t = archStep (settled s) (portReq inp) ∧
        pendingAnswers s ++ answers (settled s) [portReq inp] = t.resp.toList ++ pendingAnswers t)

/-- R24 and R119: every accepted request that does not fault gets its response `LATENCY` cycles after it was accepted, whatever the
host does in between short of reset, where no older request in flight faults. A request that waits at the port is presented
unchanged, since R122 gives no move to a host that changes it. -/
def Obligations.ResponseComesAfterLatency : Prop :=
  ∀ (p : Params) (inp : PortIn) (rest : List PortIn) (x : Port) (r : Res),
    CycleInv p x.unit → x.unit.wasReset = true → (settled x.unit).fault = false → hostMayDrive inp x →
    inp.rst = false → inp.reqValid = true → outcomeOf (portReq inp) = .ok r →
    rest.length = p.latency → (∀ i ∈ rest, i.rst = false) →
    ∃ y, cycles p (inp :: rest) x = .next y ∧ y.unit.resp = some r ∧ y.unit.result = some r ∧ y.unit.valid = true

/-- R100: when the due request faults, every request accepted after it is discarded and `CAUSE` records it, whatever the host
presents in that cycle. -/
def Obligations.FaultDiscardsYoungerRequests : Prop :=
  ∀ (p : Params) (inp : PortIn) (s : State) (f : InFlight) (fs : List InFlight) (c : FaultCause),
    s.wasReset = true → s.cause ≠ 3 → inp.rst = false →
    s.inFlight = f :: fs → f.left = 1 → outcomeOf f.req = .error c →
    cycle p inp s = .next { s with
      fault := true, cause := causeCode c, valid := false, result := none, resp := none, inFlight := [] }

/-- R111: after a reset, no request accepted before it delivers a response, writes `RESULT` or `VALID`, or raises a fault: with no
new request, the unit stays in the reset state, cycle after cycle. The host may present a request in the cycle of the reset,
where R122 does not take that move away. That such a run goes on where the host WITHDRAWS a request (one that waited before the
reset, or one presented in its cycle and then dropped) is the model's own DESIGN CHOICE, unsafe, of notes/assumptions/20.md and
of no rule. -/
def Obligations.ResetDiscardsRequestsInFlight : Prop :=
  ∀ (p : Params) (inp : PortIn) (rest : List PortIn) (x : Port),
    inp.rst = true → hostMayDrive inp x → (∀ i ∈ rest, i.reqValid = false) →
    ∃ y, cycles p (inp :: rest) x = .next y ∧ y.unit = { State.reset with host := x.unit.host }

-- ## The host at the port

/-- R122, R23 and R98: a cycle at the port is the unit's own cycle of an input that R122 gives a move; a request presented while
`FAULT = 1` waits after it; and a waiting request that is changed has no move. The model's own DESIGN CHOICE, in
notes/assumptions/20.md and in no rule: that a request presented in a cycle with `rst = 1` waits as well, that the host may
withdraw a waiting request, and the refusal's name. -/
def Obligations.OnlyHostMovesRun : Prop :=
  ∀ (p : Params) (inp : PortIn) (x : Port),
    (∀ y, portCycle p inp x = .next y →
      hostMayDrive inp x ∧ cycle p inp x.unit = .next y.unit ∧
      (∀ req, y.waiting = some req ↔ inp.reqValid = true ∧ reqReady inp x.unit = false ∧ req = portReq inp)) ∧
    (hostMayDrive inp x → ∀ t, cycle p inp x.unit = .next t → ∃ y, portCycle p inp x = .next y ∧ y.unit = t) ∧
    (∀ req, x.waiting = some req → inp.reqValid = true → portReq inp ≠ req → portCycle p inp x = .refused .requestChanged)

/-- R98, R118 and R122: a request presented while `FAULT = 1` stays pending at the port. However many cycles the host holds it,
short of reset, the unit and the waiting request are as they were; where one of the cycles changes its fields, the run has no
move (the refusal's name is the model's, notes/assumptions/20.md); and after a reset in which it is held, it is accepted in the
next cycle as it was first presented. -/
def Obligations.PendingRequestWaitsUnchanged : Prop :=
  ∀ (p : Params) (req : ReqWord) (inputs : List PortIn) (x : Port),
    Inv x.unit → x.unit.wasReset = true → x.unit.fault = true → x.waiting = some req →
    (∀ i ∈ inputs, i.rst = false ∧ i.reqValid = true) →
    ((∀ i ∈ inputs, portReq i = req) → cycles p inputs x = .next x ∧
      ∀ r a : PortIn, r.rst = true → r.reqValid = true → portReq r = req →
        a.rst = false → a.reqValid = true → portReq a = req → 0 < p.latency →
        cycles p (inputs ++ [r, a]) x = .next
          { unit := { State.reset with host := x.unit.host, inFlight := [{ req := req, left := p.latency }] }, waiting := none }) ∧
    ((∃ i ∈ inputs, portReq i ≠ req) → cycles p inputs x = .refused .requestChanged)

/-- R43 and R108: two instances share no state: a step of one unit leaves every other unit of the platform as it was, and changes
its own by the step alone. -/
def Obligations.InstancesShareNoState : Prop :=
  ∀ (units units' : List State) (k : Nat), stepUnit units k = .next units' →
    units'.length = units.length ∧
    (∀ j, j ≠ k → units'[j]? = units[j]?) ∧
    (∀ s, units[k]? = some s → ∃ t, step s = .next t ∧ units'[k]? = some t)
end

