-- ==== Sys2Proof/Laws/State.lean ====
section
/-! SUPPORT. What each update of the state does to each field: one lemma per field per update, true by unfolding, so that no
later proof unfolds a record update. -/

namespace Sys2Proof.Machine

@[simp] theorem respond_result (r : Res) (s : State) :
    (respond r s).result = some r := rfl

@[simp] theorem respond_valid (r : Res) (s : State) :
    (respond r s).valid = true := rfl

@[simp] theorem respond_fault (r : Res) (s : State) :
    (respond r s).fault = s.fault := rfl

@[simp] theorem respond_cause (r : Res) (s : State) :
    (respond r s).cause = s.cause := rfl

@[simp] theorem respond_resp (r : Res) (s : State) :
    (respond r s).resp = some r := rfl

@[simp] theorem respond_inFlight (r : Res) (s : State) :
    (respond r s).inFlight = s.inFlight := rfl

@[simp] theorem respond_host (r : Res) (s : State) :
    (respond r s).host = s.host := rfl

@[simp] theorem respond_wasReset (r : Res) (s : State) :
    (respond r s).wasReset = s.wasReset := rfl

@[simp] theorem enterFault_result (c : FaultCause) (s : State) :
    (enterFault c s).result = none := rfl

@[simp] theorem enterFault_valid (c : FaultCause) (s : State) :
    (enterFault c s).valid = false := rfl

@[simp] theorem enterFault_fault (c : FaultCause) (s : State) :
    (enterFault c s).fault = true := rfl

@[simp] theorem enterFault_cause (c : FaultCause) (s : State) :
    (enterFault c s).cause = causeCode c := rfl

@[simp] theorem enterFault_resp (c : FaultCause) (s : State) :
    (enterFault c s).resp = none := rfl

@[simp] theorem enterFault_inFlight (c : FaultCause) (s : State) :
    (enterFault c s).inFlight = [] := rfl

@[simp] theorem enterFault_host (c : FaultCause) (s : State) :
    (enterFault c s).host = s.host := rfl

@[simp] theorem enterFault_wasReset (c : FaultCause) (s : State) :
    (enterFault c s).wasReset = s.wasReset := rfl

@[simp] theorem applyReset_result (s : State) :
    (applyReset s).result = none := rfl

@[simp] theorem applyReset_valid (s : State) :
    (applyReset s).valid = false := rfl

@[simp] theorem applyReset_fault (s : State) :
    (applyReset s).fault = false := rfl

@[simp] theorem applyReset_cause (s : State) :
    (applyReset s).cause = 0 := rfl

@[simp] theorem applyReset_resp (s : State) :
    (applyReset s).resp = none := rfl

@[simp] theorem applyReset_inFlight (s : State) :
    (applyReset s).inFlight = [] := rfl

@[simp] theorem applyReset_host (s : State) :
    (applyReset s).host = s.host := rfl

@[simp] theorem applyReset_wasReset (s : State) :
    (applyReset s).wasReset = true := rfl

@[simp] theorem idle_result (s : State) :
    (idle s).result = s.result := rfl

@[simp] theorem idle_valid (s : State) :
    (idle s).valid = s.valid := rfl

@[simp] theorem idle_fault (s : State) :
    (idle s).fault = s.fault := rfl

@[simp] theorem idle_cause (s : State) :
    (idle s).cause = s.cause := rfl

@[simp] theorem idle_resp (s : State) :
    (idle s).resp = none := rfl

@[simp] theorem idle_inFlight (s : State) :
    (idle s).inFlight = s.inFlight := rfl

@[simp] theorem idle_host (s : State) :
    (idle s).host = s.host := rfl

@[simp] theorem idle_wasReset (s : State) :
    (idle s).wasReset = s.wasReset := rfl

@[simp] theorem tick_result (s : State) :
    (tick s).result = s.result := rfl

@[simp] theorem tick_valid (s : State) :
    (tick s).valid = s.valid := rfl

@[simp] theorem tick_fault (s : State) :
    (tick s).fault = s.fault := rfl

@[simp] theorem tick_cause (s : State) :
    (tick s).cause = s.cause := rfl

@[simp] theorem tick_resp (s : State) :
    (tick s).resp = none := rfl

@[simp] theorem tick_inFlight (s : State) :
    (tick s).inFlight = s.inFlight.map fun f => { f with left := f.left - 1 } := rfl

@[simp] theorem tick_host (s : State) :
    (tick s).host = s.host := rfl

@[simp] theorem tick_wasReset (s : State) :
    (tick s).wasReset = s.wasReset := rfl

@[simp] theorem enqueue_result (p : Params) (req : ReqWord) (s : State) :
    (enqueue p req s).result = s.result := rfl

@[simp] theorem enqueue_valid (p : Params) (req : ReqWord) (s : State) :
    (enqueue p req s).valid = s.valid := rfl

@[simp] theorem enqueue_fault (p : Params) (req : ReqWord) (s : State) :
    (enqueue p req s).fault = s.fault := rfl

@[simp] theorem enqueue_cause (p : Params) (req : ReqWord) (s : State) :
    (enqueue p req s).cause = s.cause := rfl

@[simp] theorem enqueue_resp (p : Params) (req : ReqWord) (s : State) :
    (enqueue p req s).resp = s.resp := rfl

@[simp] theorem enqueue_inFlight (p : Params) (req : ReqWord) (s : State) :
    (enqueue p req s).inFlight = s.inFlight ++ [{ req := req, left := p.latency }] := rfl

@[simp] theorem enqueue_host (p : Params) (req : ReqWord) (s : State) :
    (enqueue p req s).host = s.host := rfl

@[simp] theorem enqueue_wasReset (p : Params) (req : ReqWord) (s : State) :
    (enqueue p req s).wasReset = s.wasReset := rfl

@[simp] theorem archOf_result (s : State) : (archOf s).result = s.result := rfl

@[simp] theorem archOf_valid (s : State) : (archOf s).valid = s.valid := rfl

@[simp] theorem archOf_fault (s : State) : (archOf s).fault = s.fault := rfl

@[simp] theorem archOf_cause (s : State) : (archOf s).cause = s.cause := rfl

end Sys2Proof.Machine
end

