-- ==== Sys2Proof/Laws/Operands.lean ====
section
/-! SUPPORT. What the notation of 00_scope.md section 5 and the domain reducer compute, in plain integer arithmetic. -/

namespace Sys2Proof.Machine

/-- The shift is floor division (00_scope.md R14), in the form `omega` reads. -/
theorem shr_eq (v : Int) (n : Nat) : shr v n = v / 2 ^ n := rfl

theorem shr_nonneg {v : Int} (h : 0 ≤ v) (n : Nat) : 0 ≤ shr v n :=
  Int.ediv_nonneg h (by positivity)

theorem shr_le_shr {v w : Int} (h : v ≤ w) (n : Nat) : shr v n ≤ shr w n :=
  Int.ediv_le_ediv (by positivity) h

/-- The bit of an integer (00_scope.md R13). -/
theorem bitOf_eq_true_iff (v : Int) (k : Nat) : bitOf v k = true ↔ v / 2 ^ k % 2 = 1 := by
  simp only [bitOf, beq_iff_eq, shr_eq]

theorem bitOf_eq_false_iff (v : Int) (k : Nat) : bitOf v k = false ↔ v / 2 ^ k % 2 = 0 := by
  simp only [bitOf, beq_eq_false_iff_ne, shr_eq]
  omega

theorem high1_eq (angle : Angle) : high1 angle = decide (angle.toNat / 2 ^ 18 % 2 = 1) := by
  simp [high1, BitVec.getLsbD, Nat.testBit_eq_decide_div_mod_eq]

theorem high0_eq (angle : Angle) : high0 angle = decide (angle.toNat / 2 ^ 19 % 2 = 1) := by
  simp [high0, BitVec.getLsbD, Nat.testBit_eq_decide_div_mod_eq]

theorem low18_eq (angle : Angle) : low18 angle = ((angle.toNat % 2 ^ 18 : Nat) : Int) := by
  simp [low18, BitVec.extractLsb'_toNat]

/-- The folded argument in arithmetic (41_sine.md R71). -/
theorem fold_eq (angle : Angle) :
    fold angle =
      (if angle.toNat / 2 ^ 18 % 2 = 1 then (2 ^ 18 - angle.toNat % 2 ^ 18) % 2 ^ 18
        else angle.toNat % 2 ^ 18 : Nat) := by
  have h := angle.isLt
  simp only [fold, high1_eq, low18_eq, decide_eq_true_eq]
  split <;> omega

theorem fold_nonneg (angle : Angle) : 0 ≤ fold angle := by
  rw [fold_eq]; exact Int.natCast_nonneg _

theorem fold_lt (angle : Angle) : fold angle < 2 ^ 18 := by
  rw [fold_eq]; split <;> omega

end Sys2Proof.Machine
end

