-- ==== Sys2Proof/Laws/Clamp.lean ====
section
/-! SUPPORT. What the Overflow Clamp can answer, at the width every operation uses (40_overflow_clamp.md R68). -/

namespace Sys2Proof.Machine

/-- Everything `clampTo 18` can do, in arithmetic: a saturation when bits 18 and 17 differ, else the value itself when it
fits, else the fault. -/
theorem clampTo18_cases (v : Int) :
    (v / 2 ^ 18 % 2 = 1 ∧ v / 2 ^ 17 % 2 = 0 ∧ clampTo 18 v = .ok (-131072)) ∨
    (v / 2 ^ 18 % 2 = 0 ∧ v / 2 ^ 17 % 2 = 1 ∧ clampTo 18 v = .ok 131071) ∨
    (v / 2 ^ 18 % 2 = v / 2 ^ 17 % 2 ∧ -131072 ≤ v ∧ v < 131072 ∧ clampTo 18 v = .ok v) ∨
    (v / 2 ^ 18 % 2 = v / 2 ^ 17 % 2 ∧ ¬ (-131072 ≤ v ∧ v < 131072) ∧ clampTo 18 v = .error .clampPost) := by
  have agree (hb : bitOf v 18 = bitOf v 17) : saturate 18 v = v := by simp [saturate, hb]
  have fits : (v / 2 ^ 17 = 0 ∨ v / 2 ^ 17 = -1) ↔ (-131072 ≤ v ∧ v < 131072) := by omega
  rcases h1 : bitOf v 18 <;> rcases h2 : bitOf v 17
  case false.true =>
    refine .inr (.inl ⟨(bitOf_eq_false_iff v 18).1 h1, (bitOf_eq_true_iff v 17).1 h2, ?_⟩)
    simp [clampTo, saturate, h1, h2, maxOf, shr]
  case true.false =>
    refine .inl ⟨(bitOf_eq_true_iff v 18).1 h1, (bitOf_eq_false_iff v 17).1 h2, ?_⟩
    simp [clampTo, saturate, h1, h2, minOf, shr]
  all_goals
    have hs := agree (h1.trans h2.symm)
    simp only [bitOf_eq_true_iff, bitOf_eq_false_iff] at h1 h2
    by_cases h : -131072 ≤ v ∧ v < 131072
    · exact .inr (.inr (.inl ⟨h1.trans h2.symm, h.1, h.2, by
        rw [clampTo, hs, shr_eq]; exact if_pos (fits.2 h)⟩))
    · exact .inr (.inr (.inr ⟨h1.trans h2.symm, h, by
        rw [clampTo, hs, shr_eq]; exact if_neg (mt fits.1 h)⟩))

/-- `clampResult` is the clamp followed by `to18`. -/
theorem clampResult_of_ok {v c : Int} (h : clampTo 18 v = .ok c) : clampResult v = .ok (to18 c) := by
  simp [clampResult, h]

theorem clampResult_of_error {v : Int} {e : FaultCause} (h : clampTo 18 v = .error e) :
    clampResult v = .error e := by
  simp [clampResult, h]

/-- The clamp raises no other cause than CLAMP_POST. -/
theorem clampResult_error {v : Int} {e : FaultCause} (h : clampResult v = .error e) : e = .clampPost := by
  rcases clampTo18_cases v with ⟨-, -, hc⟩ | ⟨-, -, hc⟩ | ⟨-, -, -, hc⟩ | ⟨-, -, hc⟩ <;>
    simp_all [clampResult]

end Sys2Proof.Machine
end

