-- ==== Sys2Proof/Laws/Poly.lean ====
section
/-! SUPPORT. Bounds of one power product and of one term, from which the ranges of 00_scope.md R10 follow. -/

namespace Sys2Proof.Machine

theorem powMul_nonneg {x y : Int} (hx : 0 ≤ x) (hy : 0 ≤ y) : 0 ≤ powMul x y :=
  shr_nonneg (Int.mul_nonneg hx hy) _

/-- A product of values below 2^18, rescaled, is bounded by the product of their bounds, rescaled. -/
theorem powMul_le {x y a b : Int} (hx : 0 ≤ x) (hy : 0 ≤ y) (hxa : x ≤ a) (hyb : y ≤ b) :
    powMul x y ≤ powMul a b :=
  shr_le_shr (Int.mul_le_mul hxa hyb hy (hx.trans hxa)) _

/-- A term is monotone in its power. -/
theorem term_le {k x a : Int} (n : Nat) (hk : 0 ≤ k) (h : x ≤ a) : shr (k * x) n ≤ shr (k * a) n :=
  shr_le_shr (Int.mul_le_mul_of_nonneg_left h hk) n

theorem term_nonneg {k x : Int} (n : Nat) (hk : 0 ≤ k) (hx : 0 ≤ x) : 0 ≤ shr (k * x) n :=
  shr_nonneg (Int.mul_nonneg hk hx) n

/-- `x2` lies in `[0, 262142]` (00_scope.md R10). -/
theorem powX2_bounds {x : Int} (h0 : 0 ≤ x) (h1 : x ≤ 262143) : 0 ≤ powX2 x ∧ powX2 x ≤ 262142 :=
  ⟨powMul_nonneg h0 h0, (powMul_le h0 h0 h1 h1).trans (by decide)⟩

end Sys2Proof.Machine
end

