-- ==== Sys2Proof/Laws/Request.lean ====
section
/-! SUPPORT. What running a request, the transaction step and a due answer can do, each said once. -/

namespace Sys2Proof.Machine

@[simp] theorem finish_ok (r : Res) (s : State) : finish (.ok r) s = respond r s := rfl

@[simp] theorem finish_error (c : FaultCause) (s : State) : finish (.error c) s = enterFault c s := rfl

@[simp] theorem finish_host (o : Except FaultCause Res) (s : State) : (finish o s).host = s.host := by
  cases o <;> rfl

@[simp] theorem finish_wasReset (o : Except FaultCause Res) (s : State) :
    (finish o s).wasReset = s.wasReset := by
  cases o <;> rfl

@[simp] theorem andThen_next {α β : Type} (s : α) (f : α → Host.Outcome β Fault Refusal) :
    andThen (.next s) f = f s := rfl

/-- An accepted request answers a next state, the end of its outcome (10_state.md R34). -/
theorem perform_eq (req : ReqWord) (s : State) : perform req s = .next (finish (outcomeOf req) s) := by
  unfold perform outcomeOf
  rcases decode req with ⟨i⟩ | ⟨⟨⟩⟩
  · cases i <;> rfl
  · rfl

/-- Each operation answers a next state, the end of its outcome. -/
theorem exec_sin (angle : Angle) (acc : Acc) (s : State) :
    exec (.sin angle acc) s = .next (finish (sinOp angle) s) := rfl

theorem exec_cos (angle : Angle) (acc : Acc) (s : State) :
    exec (.cos angle acc) s = .next (finish (cosOp angle) s) := rfl

theorem exec_clamp (angle : Angle) (acc : Acc) (s : State) :
    exec (.clamp angle acc) s = .next (finish (clampOp acc) s) := rfl

/-- A cause of 1 or 2 is never the code 0 or the reserved code 3 (10_state.md R29). -/
@[simp] theorem causeCode_ne_zero (c : FaultCause) : causeCode c ≠ 0#2 := by cases c <;> decide

@[simp] theorem causeCode_ne_three (c : FaultCause) : causeCode c ≠ 3#2 := by cases c <;> decide

/-- When the unit has a move besides reset. -/
theorem noMove_eq_none_iff (s : State) : noMove s = none ↔ s.wasReset = true ∧ s.cause ≠ 3 := by
  unfold noMove
  rcases s.wasReset <;> simp

/-- The effect of a request on the architectural fields is `archStep`, where the unit is not halted. -/
theorem archOf_finish {s : State} (req : ReqWord) (h : s.fault = false) :
    archOf (finish (outcomeOf req) s) = archStep (archOf s) req := by
  unfold archStep
  cases outcomeOf req <;> simp [h, archOf]

/-- Everything a transaction that answers a next state can be: a reset, the answer to the oldest request in flight, the
answer to the request presented next, or a step without a request. -/
theorem step_cases {s t : State} (h : step s = .next t) :
    (∃ rest, s.host = .applyReset :: rest ∧ t = applyReset { s with host := rest }) ∨
    (s.fault = false ∧ ∃ f fs, s.inFlight = f :: fs ∧
      t = finish (outcomeOf f.req) { s with inFlight := fs }) ∨
    (s.fault = false ∧ s.inFlight = [] ∧ ∃ req rest, s.host = .present req :: rest ∧
      t = finish (outcomeOf req) { s with host := rest }) ∨
    (t = idle s ∧ (s.host = [] ∧ (s.inFlight = [] ∨ s.fault = true))) := by
  unfold step transaction at h
  split at h
  · rename_i rest hh
    cases h
    exact .inl ⟨rest, hh, rfl⟩
  · rename_i hh
    split at h
    · cases h
    · rcases (Bool.eq_false_or_eq_true s.fault).symm with hf | hf <;>
        simp only [accepts, hf, Bool.not_false, Bool.not_true, if_true] at h
      · unfold acceptingStep at h
        split at h
        · rename_i f fs hfl
          rw [perform_eq] at h
          cases h
          exact .inr (.inl ⟨hf, f, fs, hfl, rfl⟩)
        · rename_i hfl
          split at h
          · rename_i req rest hp
            rw [perform_eq] at h
            cases h
            exact .inr (.inr (.inl ⟨hf, hfl, req, rest, hp, rfl⟩))
          · rename_i hp
            cases h
            refine .inr (.inr (.inr ⟨rfl, ?_, .inl hfl⟩))
            match hs : s.host with
            | [] => rfl
            | .present req :: rest => exact absurd hs (hp req rest)
            | .applyReset :: rest => exact absurd hs (hh rest)
      · unfold haltedStep at h
        simp only [Bool.false_eq_true, if_false] at h
        split at h
        · cases h
        · rename_i hp
          cases h
          refine .inr (.inr (.inr ⟨rfl, ?_, .inr hf⟩))
          match hs : s.host with
          | [] => rfl
          | .present req :: rest => exact absurd hs (hp req rest)
          | .applyReset :: rest => exact absurd hs (hh rest)

/-- A run of one more step, where the first answers a next state. -/
theorem run_succ_of_next {s t : State} {k : Nat} (h : step s = .next t) :
    Host.Core.run Sys2Proof.core (k + 1) s = Host.Core.run Sys2Proof.core k t := by
  have unfolded (M : Host.Core) (u v : M.State) (hu : M.step u = .next v) : M.run (k + 1) u = M.run k v := by
    have e : M.run (k + 1) u = (match M.step u with
        | .next w => M.run k w
        | .fault r => .fault r
        | .refused r => .refused r) := rfl
    rw [e, hu]
  exact unfolded Sys2Proof.core s t h

/-- A due answer always answers a next state: the oldest request's, or the state itself. -/
theorem answerDue_cases (s : State) :
    (∃ f fs, s.inFlight = f :: fs ∧ f.left = 0 ∧
      answerDue s = .next (finish (outcomeOf f.req) { s with inFlight := fs })) ∨
    ((∀ f fs, s.inFlight = f :: fs → f.left ≠ 0) ∧ answerDue s = .next s) := by
  unfold answerDue
  split
  · rename_i f fs hfl
    split
    · rename_i h0
      exact .inl ⟨f, fs, hfl, h0, perform_eq _ _⟩
    · rename_i h0
      refine .inr ⟨?_, rfl⟩
      intro g gs hg
      simp only [hfl, List.cons.injEq] at hg
      exact hg.1 ▸ h0
  · rename_i hfl
    exact .inr ⟨by simp [hfl], rfl⟩

end Sys2Proof.Machine
end

