-- ==== Sys2Proof/Laws/Cycle.lean ====
section
/-! SUPPORT. What one clock cycle can do, said once. -/

namespace Sys2Proof.Machine

/-- Everything a cycle that answers a next state can be: a reset cycle; or the due answer `s'`, and then an accepted request
(answered at once with `LATENCY = 0`), or none. -/
theorem cycle_cases {p : Params} {inp : PortIn} {s t : State} (h : cycle p inp s = .next t) :
    (inp.rst = true ∧ (inp.reqValid = true → s.wasReset = true) ∧ t = applyReset s) ∨
    (inp.rst = false ∧ s.wasReset = true ∧ s.cause ≠ 3 ∧ ∃ s', answerDue (tick s) = .next s' ∧
      ((inp.reqValid = true ∧ s'.fault = false ∧ p.latency ≠ 0 ∧ t = enqueue p (portReq inp) s') ∨
       (inp.reqValid = true ∧ s'.fault = false ∧ p.latency = 0 ∧
        answerDue (enqueue p (portReq inp) s') = .next t) ∨
       ((inp.reqValid = false ∨ s'.fault = true) ∧ t = s'))) := by
  unfold cycle presentsInFirstReset at h
  rcases hr : inp.rst
  · simp only [hr, Bool.false_and, Bool.false_eq_true, if_false] at h
    split at h
    · cases h
    · rename_i hn
      obtain ⟨hw, hc⟩ := (noMove_eq_none_iff s).1 hn
      refine .inr ⟨rfl, hw, hc, ?_⟩
      rcases answerDue_cases (tick s) with ⟨f, fs, -, -, ha⟩ | ⟨-, ha⟩ <;>
        refine ⟨_, ha, ?_⟩ <;> rw [ha, andThen_next] at h <;> (
          split at h
          · rename_i hv
            simp only [accepts, Bool.and_eq_true, Bool.not_eq_true'] at hv
            split at h
            · exact .inr (.inl ⟨hv.1, hv.2, ‹_›, h⟩)
            · cases h
              exact .inl ⟨hv.1, hv.2, ‹_›, rfl⟩
          · rename_i hv
            cases h
            refine .inr (.inr ⟨?_, rfl⟩)
            simp only [accepts, Bool.and_eq_true, Bool.not_eq_true', not_and, Bool.not_eq_false] at hv
            rcases hq : inp.reqValid
            · exact .inl rfl
            · exact .inr (hv hq))
  · simp only [hr, Bool.true_and, if_true] at h
    split at h
    · cases h
    · rename_i hn
      cases h
      exact .inl ⟨rfl, by simpa using hn, rfl⟩

/-- A reset cycle answers the state after reset, unless it is the first and presents a request. -/
theorem cycle_of_rst {p : Params} {inp : PortIn} {s : State} (hr : inp.rst = true)
    (hq : inp.reqValid = true → s.wasReset = true) : cycle p inp s = .next (applyReset s) := by
  unfold cycle presentsInFirstReset
  rcases hv : inp.reqValid <;> simp_all

/-- While `rst = 1` no request is accepted (70_reset_and_hazards.md R110). -/
theorem reqReady_of_rst {inp : PortIn} {s : State} (hr : inp.rst = true) : reqReady inp s = false := by
  unfold reqReady
  split <;> simp [hr]

/-- Everything a cycle at the port that answers can be: the unit's own cycle, of an input that leaves a waiting request as it was
presented. -/
theorem portCycle_cases {p : Params} {inp : PortIn} {x y : Port} (h : portCycle p inp x = .next y) :
    changesRequest inp x.waiting = false ∧ cycle p inp x.unit = .next y.unit ∧ y.waiting = waitingAfter inp x.unit := by
  unfold portCycle at h
  split at h
  · cases h
  · rename_i hc
    rcases hy : cycle p inp x.unit with t | r | r <;> rw [hy] at h <;> cases h
    exact ⟨by simpa using hc, rfl, rfl⟩

/-- A cycle at the port answers where the unit's own does and a waiting request is not changed. -/
theorem portCycle_of_cycle {p : Params} {inp : PortIn} {x : Port} {t : State} (hc : changesRequest inp x.waiting = false)
    (h : cycle p inp x.unit = .next t) :
    portCycle p inp x = .next { unit := t, waiting := waitingAfter inp x.unit } := by
  unfold portCycle
  simp [hc, h]

/-- An input changes no waiting request exactly when it presents none, none waits, or it presents the one that waits. -/
theorem changesRequest_eq_false_iff (inp : PortIn) (waiting : Option ReqWord) :
    changesRequest inp waiting = false ↔ inp.reqValid = false ∨ waiting = none ∨ waiting = some (portReq inp) := by
  cases waiting
  · simp [changesRequest]
  · rcases hq : inp.reqValid <;> simp [changesRequest, hq]
    exact eq_comm

/-- A cycle without reset always answers a next state, where the unit has a move. -/
theorem cycle_next {p : Params} {inp : PortIn} {s : State} (hw : s.wasReset = true) (hc : s.cause ≠ 3) :
    ∃ t, cycle p inp s = .next t := by
  rcases hr : inp.rst
  case true => exact ⟨_, cycle_of_rst hr fun _ => hw⟩
  have next_of (u : State) : ∃ t, answerDue u = .next t := by
    rcases answerDue_cases u with ⟨_, _, -, -, ha⟩ | ⟨-, ha⟩ <;> exact ⟨_, ha⟩
  unfold cycle presentsInFirstReset
  simp only [hr, Bool.false_and, Bool.false_eq_true, if_false]
  rw [(noMove_eq_none_iff s).2 ⟨hw, hc⟩]
  obtain ⟨s', ha⟩ := next_of (tick s)
  simp only [ha, andThen_next]
  obtain ⟨u, hu⟩ := next_of (enqueue p (portReq inp) s')
  split
  · split
    · exact ⟨u, hu⟩
    · exact ⟨_, rfl⟩
  · exact ⟨_, rfl⟩

/-- A halted unit answers nothing more, whatever it is given (60_exceptions.md R98). -/
theorem foldl_archStep_of_fault {a : Arch} (h : a.fault = true) (reqs : List ReqWord) :
    reqs.foldl archStep a = a := by
  induction reqs with
  | nil => rfl
  | cons req rest ih => rw [List.foldl_cons, show archStep a req = a by simp [archStep, h], ih]

theorem answers_of_fault {a : Arch} (h : a.fault = true) (reqs : List ReqWord) : answers a reqs = [] := by
  cases reqs <;> simp [answers, h]

theorem answers_cons_ok {a : Arch} {req : ReqWord} {r : Res} {rest : List ReqWord} (hf : a.fault = false)
    (h : outcomeOf req = .ok r) : answers a (req :: rest) = r :: answers (archStep a req) rest := by
  simp [answers, hf, h]

theorem answers_cons_error {a : Arch} {req : ReqWord} {c : FaultCause} {rest : List ReqWord}
    (h : outcomeOf req = .error c) : answers a (req :: rest) = [] := by
  simp [answers, h]

/-- The responses to a list of requests and then another come one after the other. -/
theorem answers_append (a : Arch) (l m : List ReqWord) :
    answers a (l ++ m) = answers a l ++ answers (l.foldl archStep a) m := by
  induction l generalizing a with
  | nil => rfl
  | cons req rest ih =>
    rcases (Bool.eq_false_or_eq_true a.fault).symm with hf | hf
    · rcases ho : outcomeOf req with c | r
      · rw [List.cons_append, answers_cons_error ho, answers_cons_error ho, List.foldl_cons]
        have hs : (archStep a req).fault = true := by simp [archStep, hf, ho]
        rw [foldl_archStep_of_fault hs, answers_of_fault hs, List.nil_append]
      · rw [List.cons_append, answers_cons_ok hf ho, answers_cons_ok hf ho, ih, List.foldl_cons, List.cons_append]
    · rw [answers_of_fault hf, answers_of_fault hf, foldl_archStep_of_fault hf, answers_of_fault hf, List.nil_append]

end Sys2Proof.Machine
end

