-- ==== Sys2Proof/Laws/PerInstr.lean ====
section
/-! SUPPORT. Facts about every operation as syntax, one lemma per constructor. -/

namespace Sys2Proof.Laws.Match

/-- The match and mask of an operation in the opcode table: its word's low two bits (30_encoding.md R52). -/
def opOf : Instr → ReqWord
  | .sin _ _ => 0x0
  | .cos _ _ => 0x1
  | .clamp _ _ => 0x2

/-- The encoding of `i` matches its row: `REQ & 0x3` is the row's match (30_encoding.md R52). -/
def Statement (i : Instr) : Prop := encode i &&& 0x3 = opOf i

/-- The low two bits of a packed word are its operation select. -/
theorem packReq_and_three (op : OpSel) (angle : Angle) (acc : Acc) :
    packReq op angle acc &&& 0x3 = op.setWidth 54 := by
  apply BitVec.eq_of_toNat_eq
  have h := op.isLt
  have h3 : (0x3 : ReqWord).toNat = 2 ^ 2 - 1 := rfl
  rw [BitVec.toNat_and, h3, Nat.and_two_pow_sub_one_eq_mod]
  simp only [packReq, BitVec.toNat_append, BitVec.toNat_setWidth, Nat.shiftLeft_eq]
  rw [Nat.or_mod_two_pow]
  simp
  omega

theorem sin (angle : Angle) (acc : Acc) : Statement (.sin angle acc) := packReq_and_three 0 angle acc

theorem cos (angle : Angle) (acc : Acc) : Statement (.cos angle acc) := packReq_and_three 1 angle acc

theorem clamp (angle : Angle) (acc : Acc) : Statement (.clamp angle acc) := packReq_and_three 2 angle acc

end Sys2Proof.Laws.Match
end

