-- ==== Sys2Proof/Tests/Slice0.lean ====
section
/-! SUPPORT. The model's own tests. Every expected value is the spec's: the file and row it comes from stand beside it. Then a
witness for the hypotheses of each statement that has any. -/

namespace Sys2Proof.Tests

open Sys2Proof.Machine

/-- A unit after reset whose host does `acts` next. -/
def unitWith (acts : List HostAction) : State := { State.reset with host := acts }

/-- A unit after reset with requests in flight. -/
def flying (fs : List InFlight) : State := { State.reset with inFlight := fs }

/-- A unit in the fault state of cause 1. -/
def halted (acts : List HostAction) : State := { unitWith acts with fault := true, cause := 1 }

/-- A unit that holds the result `r` and has just delivered it. -/
def answered (r : Res) : State := { State.reset with result := some r, valid := true, resp := some r }

/-- The outcome is the next state `t`. -/
def nextIs (o : Host.Outcome State Fault Refusal) (t : State) : Bool :=
  match o with
  | .next s => decide (s = t)
  | _ => false

/-- The outcome is the fault `f`. -/
def faultIs (o : Host.Outcome State Fault Refusal) (f : Fault) : Bool :=
  match o with
  | .fault g => decide (g = f)
  | _ => false

/-- The outcome is the refusal `r`. -/
def refusedIs (o : Host.Outcome State Fault Refusal) (r : Refusal) : Bool :=
  match o with
  | .refused q => decide (q = r)
  | _ => false

/-- A cycle that presents the request `SIN 0x20000`. -/
def sinPort : PortIn := { rst := false, reqValid := true, reqOp := 0, reqAngle := 0x20000, reqAcc := 0 }

/-- A cycle with no request. -/
def quiet : PortIn := { rst := false, reqValid := false, reqOp := 0, reqAngle := 0, reqAcc := 0 }

/-- A halted unit at whose port the request `req` waits. -/
def haltedWith (req : ReqWord) : Port := { unit := halted [], waiting := some req }

/-- The outcome is the next port state `y`. -/
def portNextIs (o : Host.Outcome Port Fault Refusal) (y : Port) : Bool :=
  match o with
  | .next x => decide (x = y)
  | _ => false

/-- The outcome at the port is the refusal `r`. -/
def portRefusedIs (o : Host.Outcome Port Fault Refusal) (r : Refusal) : Bool :=
  match o with
  | .refused q => decide (q = r)
  | _ => false

/-- Parameters with the latency `n`. -/
def withLatency (n : Nat) : Params :=
  { latency := n, faultIrq := true, busByteOrder := .littleEndian, busBase := 0, resetStyle := .synchronous }

-- ## The written-request checks refuse ill-formed terms (30_encoding.md R51, R59)

theorem test_angle_too_wide_refused : (Written.sin 0x100000).wellFormed = false ∧ assemble (.sin 0x100000) = none := by
  decide
theorem test_cos_angle_too_wide_refused : (Written.cos 0x100000).wellFormed = false ∧ assemble (.cos 0x100000) = none := by
  decide
theorem test_acc_too_large_refused : (Written.clamp 2147483648).wellFormed = false := by decide
theorem test_acc_too_small_refused : (Written.clamp (-2147483649)).wellFormed = false := by decide
theorem test_word_too_wide_refused : (Written.word 0x40000000000000).wellFormed = false := by decide
theorem test_written_refusal_by_name :
    refusedIs (presentWritten (.sin 0x100000) State.reset) .operandOutOfRange = true := by decide
/-- 30_encoding.md R59: `SIN 0x40000` encodes as REQ = 0x00000000100000. -/
theorem test_assemble_sin : assemble (.sin 0x40000) = some 0x00000000100000 := by decide
/-- 95_test_vectors.md 2.4: `CLAMP -131073`. -/
theorem test_assemble_clamp : assemble (.clamp (-131073)) = some 0x3FFF7FFFC00002 := by decide

-- ## Decoding of words written out from 30_encoding.md R49 as acc ++ angle ++ op, and of 95_test_vectors.md's REQ columns

theorem test_decode_sin_bits :
    decode (0b00000000000000000000000000000000#32 ++ 0b00100000000000000000#20 ++ 0b00#2) =
      .instr (.sin 0x20000 0) := by decide
theorem test_decode_cos_bits :
    decode (0b00010010001101000101011001111000#32 ++ 0b00001000000000000000#20 ++ 0b01#2) =
      .instr (.cos 0x08000 0x12345678) := by decide
theorem test_decode_clamp_bits :
    decode (0b11111111111111101111111111111111#32 ++ 0b00000000000000000000#20 ++ 0b10#2) =
      .instr (.clamp 0 0xFFFEFFFF) := by decide
/-- 95_test_vectors.md 2.6: SIN 0x8000 with acc = -1. -/
theorem test_decode_ignored_acc : decode 0x3FFFFFFFC20000 = .instr (.sin 0x08000 0xFFFFFFFF) := by decide
/-- 95_test_vectors.md 2.5. -/
theorem test_decode_reserved : decode 0x3FFFFFFFFFFFFF = .rejected .reservedOp := by decide
theorem test_table_word_cos : decodeTableWord 56 0x048D159E020001 = some (.cos 0x08000 0x12345678) := by decide
/-- A bit above bit 53 belongs to no request (R49). -/
theorem test_table_word_too_wide : decodeTableWord 56 0x40000000000000 = none := by decide

-- ## One operation at a time (95_test_vectors.md sections 2.1 to 2.4)

/-- 2.1, angle 0x2AAAB: 113512. -/
theorem test_sin_value : nextIs (exec (.sin 0x2AAAB 7) State.reset) (answered 0x1BB68) = true := by decide
/-- 2.1, angle 0x40000: 131071 by the override and the clamp; and its partner 0xC0000, -131072. -/
theorem test_sin_peaks : sinOp 0x40000 = .ok 0x1FFFF ∧ sinOp 0xC0000 = .ok 0x20000 := by decide
/-- 2.2, angle 0x30000: 50158. -/
theorem test_cos_value : nextIs (exec (.cos 0x30000 7) State.reset) (answered 0x0C3EE) = true := by decide
/-- 2.2, angle 0x40001: -1; and 0x7FFFF: -131072. -/
theorem test_cos_negatives : cosOp 0x40001 = .ok 0x3FFFF ∧ cosOp 0x7FFFF = .ok 0x20000 := by decide
/-- The intermediate values of 2.1, angle 0x2AAAB. -/
theorem test_sin_terms :
    sinT1 174763 = 274516 ∧ sinT3 174763 = 50173 ∧ sinT5 174763 = 2749 ∧ sinT7 174763 = 68 ∧ sinSum 174763 = 227024 := by
  decide
/-- The intermediate values of 2.2, angle 0x30000. -/
theorem test_cos_terms :
    cosT2 196608 = 181917 ∧ cosT4 196608 = 21040 ∧ cosT6 196608 = 973 ∧ cosT8 196608 = 23 ∧ cosSum 196608 = 100317 := by
  decide
/-- 2.4, CLAMP 262144: the wrong-signed extreme. -/
theorem test_clamp_wrong_signed : nextIs (exec (.clamp 5 0x00040000) State.reset) (answered 0x20000) = true := by decide
/-- 2.4, CLAMP 393216: CLAMP_POST from a state with a result (P3 step 2). -/
theorem test_clamp_fault : nextIs (exec (.clamp 0 0x00060000) (answered 0x16A09)) (halted []) = true := by decide

-- ## The step

/-- P1 step 4: SIN 0xC0000. -/
theorem test_step_runs_request :
    nextIs (step (unitWith [.present 0x00000000300000])) (answered 0x20000) = true := by decide
/-- P4: the reserved encoding, and STATUS = 0b0101. -/
theorem test_step_reserved :
    nextIs (step (unitWith [.present 0x3])) { halted [] with cause := 2 } = true ∧
      status { halted [] with cause := 2 } = 0b0101#4 := by decide
/-- P3 step 3: the request is stuck; STATUS = 0b0011. -/
theorem test_step_stuck :
    faultIs (step (halted [.present 0x00000000040000])) .requestNotAccepted = true ∧
      status (halted []) = 0b0011#4 := by decide
/-- P3's end: a reset, from the fault state. -/
theorem test_step_reset :
    nextIs (step (halted [.applyReset, .present 0x40000])) (unitWith [.present 0x40000]) = true := by decide
theorem test_read_without_value : readResult State.reset = .error .resultHasNoValue := by decide
theorem test_read_value : readResult (answered 0x16A09) = .ok 0x16A09 := by decide
theorem test_never_reset_refused :
    refusedIs (step { State.reset with wasReset := false }) .neverReset = true := by decide
theorem test_reserved_cause_refused :
    refusedIs (step { State.reset with cause := 3 }) .reservedCause = true := by decide
theorem test_fetch_word :
    nextIs (step (State.reset.withFetchWord 56 0x00008000000002)) (answered 0x1FFFF) = true := by decide

-- ## One clock cycle (95_test_vectors.md P6, LATENCY = 2)

/-- P6 cycle 0. -/
theorem test_cycle_accepts :
    nextIs (cycle (withLatency 2) sinPort State.reset) (flying [{ req := 0x80000, left := 2 }]) = true := by decide
/-- P6 cycle 2: A is answered and C accepted. -/
theorem test_cycle_answers :
    nextIs (cycle (withLatency 2) { sinPort with reqOp := 1, reqAngle := 0 }
        (flying [{ req := 0x80000, left := 1 }, { req := 0x18000000002, left := 2 }]))
      { answered 0x16A09 with inFlight := [{ req := 0x18000000002, left := 1 }, { req := 0x1, left := 2 }] } = true := by
  decide
/-- P6 cycle 3: B faults, C is discarded, and `req_ready = 0` in this cycle. -/
theorem test_cycle_fault_discards :
    nextIs (cycle (withLatency 2) sinPort
        (flying [{ req := 0x18000000002, left := 1 }, { req := 0x1, left := 2 }])) (halted []) = true ∧
      reqReady sinPort (flying [{ req := 0x18000000002, left := 1 }, { req := 0x1, left := 2 }]) = false := by decide
/-- With LATENCY = 0 the response comes in the cycle of acceptance (10_state.md R24). -/
theorem test_cycle_latency_zero :
    nextIs (cycle (withLatency 0) sinPort State.reset) (answered 0x16A09) = true := by decide

-- ## Host actions without a move (70_reset_and_hazards.md R122)

/-- A request presented while FAULT = 1 and changed has no move, though a reset comes before its acceptance. -/
theorem test_changed_request_has_no_move :
    portRefusedIs (cycles (withLatency 2) [sinPort, { sinPort with rst := true, reqOp := 1 }, { sinPort with reqOp := 1 }]
      { unit := halted [], waiting := none }) .requestChanged = true := by decide
/-- Held through the reset, it is accepted. -/
theorem test_held_request_is_accepted :
    portNextIs (cycles (withLatency 2) [sinPort, { sinPort with rst := true }, sinPort] { unit := halted [], waiting := none })
      { unit := flying [{ req := 0x80000, left := 2 }], waiting := none } = true := by decide
/-- A request presented in the cycle of the first reset has no move. -/
theorem test_request_in_first_reset_has_no_move :
    refusedIs (cycle (withLatency 2) { sinPort with rst := true } { State.reset with wasReset := false }) .neverReset = true := by
  decide

-- ## Witnesses: concrete states and operands that meet the hypotheses of each statement, clause by clause, at the boundaries

theorem witness_EncodeInvertsDecode : decode 0x3FFFFFFFFFFFFE = .instr (.clamp 0xFFFFF 0xFFFFFFFF) := by decide
theorem witness_DecoderIsTotal :
    (0x3FFFFFFFFFFFFC#54).toNat % 4 = 0 ∧ (0x1#54).toNat % 4 = 1 ∧ (0x2#54).toNat % 4 = 2 ∧
      (0x3FFFFFFFFFFFFF#54).toNat % 4 = 3 := by decide
theorem witness_AssemblyRefusesOutOfRangeOperands :
    (1048575 < 2 ^ 20 ∧ 2 ^ 20 ≤ 1048576) ∧
      ((-2 ^ 31 ≤ (-2147483648 : Int) ∧ (-2147483648 : Int) < 2 ^ 31) ∧ ¬ (-2 ^ 31 ≤ (2147483648 : Int) ∧ (2147483648 : Int) < 2 ^ 31)) ∧
      (2 ^ 54 - 1 < 2 ^ 54 ∧ 2 ^ 54 ≤ 2 ^ 54) ∧
      assemble (.cos 0x100000) = none ∧ assemble (.cos 0x40000) = some 0x100001 := by decide
theorem witness_ClampIsTwoBitWindowTest : 2 ≤ 2 ∧ clampTo 2 1 = .ok 1 ∧ clampTo 2 2 = .ok 1 ∧ clampTo 2 (-3) = .ok (-2) ∧
    clampTo 2 6 = .error .clampPost := by decide
theorem witness_ClampUnderPrecondition :
    (-2 ^ 18 ≤ (131071 : Int) ∧ (131071 : Int) < 2 ^ 18 ∧ -2 ^ 17 ≤ (131071 : Int) ∧ (131071 : Int) < 2 ^ 17) ∧
      (2 ^ 17 ≤ (262143 : Int) ∧ (262143 : Int) < 2 ^ 18) ∧ (-2 ^ 18 ≤ (-262144 : Int) ∧ (-262144 : Int) < -2 ^ 17) := by decide
theorem witness_ClampDiffersFromRangeClamp : 2 ≤ 18 := by decide
theorem witness_ClampFaultCondition :
    clampTo 18 524288 = .error .clampPost ∧ -393217 < (393215 : Int) ∧ (393215 : Int) < 393216 := by decide
theorem witness_ClampLaws :
    clampTo 18 (-262144) = .ok (-131072) ∧ clampTo 18 262143 = .ok 131071 ∧ (-262144 : Int) ≤ 262143 := by decide
theorem witness_ClampCompletesOrFaults :
    ((0x00040000#32).getLsbD 18 = true ∧ (0x00040000#32).getLsbD 17 = false) ∧
      ((0x00020000#32).getLsbD 18 = false ∧ (0x00020000#32).getLsbD 17 = true) ∧
      (-131072 ≤ (0xFFFE0000#32).toInt ∧ (0xFFFE0000#32).toInt < 131072) ∧
      (0x00060000#32).getLsbD 18 = (0x00060000#32).getLsbD 17 ∧
      ¬ (-131072 ≤ (0x00060000#32).toInt ∧ (0x00060000#32).toInt < 131072) := by decide
theorem witness_DatapathFitsItsWidths : 0 ≤ (262143 : Int) ∧ (262143 : Int) < 2 ^ 18 := by decide
/-- 00_scope.md R10's extremes of the sums are met: the first at the largest argument, the others at x1 = 0. -/
theorem witness_SumsStayInTheirRanges :
    0 ≤ (262143 : Int) ∧ (262143 : Int) < 2 ^ 18 ∧ 2 ^ 18 - cosT2 262143 = -61261 ∧ cosSum 262143 = 2 ∧ cosSum 0 = 262144 := by
  decide
theorem witness_SinFoldSymmetry : (1 ≤ 524287 ∧ 524287 < 2 ^ 19) ∧ (2 ^ 19 < 1048575 ∧ 1048575 < 2 ^ 20) := by decide
theorem witness_SinHalfTurnNegation :
    0x80001#20 = 0x00001#20 ^^^ 0x80000 ∧ (0xC0000#20 = -0x40000#20 ∧ (0x40000#20 : Angle) ≠ 0) ∧
      sinY 0x3FFFF = 131071 ∧ sinY 0x40000 = 131072 := by decide
theorem witness_CosIsEven : 1 ≤ 262144 ∧ 262144 < 2 ^ 20 := by decide
theorem witness_CosHalfTurnNegation : cosY 0x40001 = -1 ∧ cosY 0x001FF = 131072 := by decide
theorem witness_SinRangeExact : sinY 0x3FE19 = 131072 ∧ sinY 0xC01E7 = -131072 := by decide
theorem witness_RequestFrame :
    nextIs (exec (.sin 0x40000 0) State.reset) (answered 0x1FFFF) = true ∧
      nextIs (exec (.clamp 0 0x00080000) State.reset) (halted []) = true := by decide
theorem witness_RequestIsIdempotent :
    nextIs (exec (.cos 0 0) State.reset) (answered 0x1FFFF) = true ∧ (answered 0x1FFFF).fault = false := by decide
theorem witness_OnlyClampAndReservedFault :
    outcomeOf 0x18000000002 = .error .clampPost ∧ outcomeOf 0x3 = .error .illegalOp ∧ (0x1#54).toNat % 4 = 1 := by decide
theorem witness_StepRunsDecodedRequest :
    State.reset.wasReset = true ∧ State.reset.fault = false ∧ State.reset.cause ≠ 3 ∧
      (unitWith [.present 0x1]).host = [.present 0x1] ∧ (unitWith [.present 0x1]).inFlight = [] ∧
      decode 0x1 = .instr (.cos 0 0) ∧ (flying [{ req := 0x1, left := 2 }]).host = [] := by decide
theorem witness_ReservedOpEntersFault :
    (0x3FFFFFFFFFFFFF#54).toNat % 4 = 3 ∧ (unitWith [.present 0x3FFFFFFFFFFFFF]).host = [.present 0x3FFFFFFFFFFFFF] := by decide
theorem witness_FaultEntryState :
    nextIs (step (unitWith [.present 0x18000000002])) (halted []) = true ∧
      (unitWith [.present 0x18000000002]).fault = false ∧ (halted []).fault = true := by decide
theorem witness_FaultHaltsTheUnit :
    stuck (halted [.present 0]) ∧ (halted []).host = [] ∧ (halted []).wasReset = true ∧ (halted []).cause ≠ 3 := by
  exact ⟨⟨rfl, 0, [], rfl⟩, rfl, rfl, by decide⟩
theorem witness_OnlyResetLeavesFault :
    nextIs (step (halted [.applyReset])) State.reset = true ∧ nextIs (step (halted [])) (halted []) = true ∧
      nextIs (cycle (withLatency 1) sinPort (halted [])) (halted []) = true ∧ (halted []).inFlight = [] := by decide
theorem witness_ResetFromAnyState :
    (halted [.applyReset]).host = [.applyReset] ∧ (halted [.applyReset]).inFlight = [] ∧
      ({ sinPort with rst := true } : PortIn).rst = true ∧ (halted []).wasReset = true ∧
      ({ quiet with rst := true } : PortIn).reqValid = false := by decide
theorem witness_ResetComesBeforeRequestsInFlight :
    ({ flying [{ req := 0x1, left := 1 }] with host := [.applyReset] } : State).host = [.applyReset] := by decide
theorem witness_NoMoveButReset :
    State.reset.host = [] ∧ ({ State.reset with wasReset := false } : State).wasReset = false ∧
      ({ State.reset with cause := 3 } : State).cause = 3 ∧ quiet.rst = false ∧
      ({ sinPort with rst := true } : PortIn).reqValid = true := by decide
theorem inv_answered (r : Res) : Inv (answered r) := by
  constructor <;> simp [answered, State.reset]
theorem witness_StepKeepsInvariant :
    Inv (answered 0x16A09) ∧ nextIs (step { answered 0x16A09 with host := [.present 0x3] }) { halted [] with cause := 2 } = true :=
  ⟨inv_answered _, by decide⟩
theorem witness_ResultDependsOnlyOnRequest :
    opField 0x3FFFFFFFC20000 = opField 0x20000 ∧ angleField 0x3FFFFFFFC20000 = angleField 0x20000 ∧
      nextIs (step (unitWith [.present 0x3FFFFFFFC20000])) (answered 0x063E2) = true ∧
      nextIs (step (unitWith [.present 0x20000])) (answered 0x063E2) = true := by decide
/-- Each clause: a first request, a last one that answers, a last one that faults, and a run in which none faults. -/
theorem witness_RunAnswersRequestsInOrder :
    (unitWith [.present 0x1, .present 0x100000]).host = [0x1, 0x100000].map .present ∧
      ([0x1, 0x100000] : List ReqWord)[0]? = some 0x1 ∧ ([0x1, 0x100000] : List ReqWord)[1]? = some 0x100000 ∧
      ([0x1, 0x3] : List ReqWord)[1]? = some 0x3 ∧ ([0x1, 0x3] : List ReqWord).take 1 = [0x1] ∧
      outcomeOf 0x1 = .ok 0x1FFFF ∧ outcomeOf 0x100000 = .ok 0x1FFFF ∧ outcomeOf 0x3 = .error .illegalOp := by decide
theorem witness_ResultReadableWhileValid :
    Inv (answered 0x16A09) ∧ (answered 0x16A09).valid = true ∧ Inv State.reset ∧ State.reset.valid = false :=
  ⟨inv_answered _, rfl, by constructor <;> simp [State.reset], rfl⟩
theorem inv_halted : Inv (halted []) := by
  constructor <;> simp [halted, unitWith, State.reset]
theorem witness_FaultInterruptIsLevelSensitive :
    Inv (halted []) ∧ faultIrqLevel (withLatency 0) (halted []) = true ∧
      nextIs (cycle (withLatency 0) { quiet with rst := true } (halted [])) State.reset = true ∧
      faultIrqLevel (withLatency 0) State.reset = false := ⟨inv_halted, by decide⟩
theorem witness_CycleDependsOnLatencyOnly :
    ({ withLatency 3 with faultIrq := false, busBase := 64 } : Params).latency = (withLatency 3).latency := by decide
theorem witness_AcceptanceAtThePort :
    (∀ f ∈ (flying [{ req := 0x1, left := 2 }]).inFlight, 1 < f.left) ∧
      reqReady sinPort (flying [{ req := 0x1, left := 2 }]) = true ∧ sinPort.reqValid = true ∧ 0 < (withLatency 3).latency := by
  decide
theorem cycleInv_flying : CycleInv (withLatency 2) (flying [{ req := 0x80000, left := 1 }, { req := 0x1, left := 2 }]) := by
  constructor
  · constructor <;> simp [flying, State.reset]
  · simp [flying]
  · simp [flying, withLatency]
theorem witness_CycleKeepsInvariant :
    CycleInv (withLatency 2) (flying [{ req := 0x80000, left := 1 }, { req := 0x1, left := 2 }]) ∧
      nextIs (cycle (withLatency 2) quiet (flying [{ req := 0x80000, left := 1 }, { req := 0x1, left := 2 }]))
        { answered 0x16A09 with inFlight := [{ req := 0x1, left := 1 }] } = true := ⟨cycleInv_flying, by decide⟩
theorem witness_OutputsFollowTheState :
    CycleInv (withLatency 2) (flying [{ req := 0x80000, left := 1 }, { req := 0x1, left := 2 }]) ∧
      (portOut quiet (flying [{ req := 0x80000, left := 1 }, { req := 0x1, left := 2 }])
        { answered 0x16A09 with inFlight := [{ req := 0x1, left := 1 }] }).respValid = true := ⟨cycleInv_flying, by decide⟩
theorem witness_CycleRefinesTransaction :
    CycleInv (withLatency 2) (flying [{ req := 0x80000, left := 1 }, { req := 0x1, left := 2 }]) ∧
      (flying [{ req := 0x80000, left := 1 }, { req := 0x1, left := 2 }]).wasReset = true ∧
      sinPort.rst = false ∧ sinPort.reqValid = true ∧ quiet.reqValid = false := ⟨cycleInv_flying, by decide⟩
theorem witness_ResponseComesAfterLatency :
    CycleInv (withLatency 2) (flying [{ req := 0x80000, left := 1 }, { req := 0x1, left := 2 }]) ∧
      (settled (flying [{ req := 0x80000, left := 1 }, { req := 0x1, left := 2 }])).fault = false ∧
      hostMayDrive sinPort { unit := flying [{ req := 0x80000, left := 1 }, { req := 0x1, left := 2 }], waiting := none } ∧
      outcomeOf (portReq sinPort) = .ok 0x16A09 ∧ [quiet, sinPort].length = (withLatency 2).latency ∧
      (∀ i ∈ [quiet, sinPort], i.rst = false) := ⟨cycleInv_flying, by decide, fun _ => ⟨rfl, .inl rfl⟩, by decide⟩
theorem witness_FaultDiscardsYoungerRequests :
    (flying [{ req := 0x18000000002, left := 1 }, { req := 0x1, left := 2 }]).cause ≠ 3 ∧
      outcomeOf 0x18000000002 = .error .clampPost ∧ sinPort.rst = false := by decide
theorem witness_ResetDiscardsRequestsInFlight :
    ({ sinPort with rst := true } : PortIn).rst = true ∧ hostMayDrive { sinPort with rst := true } (haltedWith 0x80000) ∧
      (∀ i ∈ [quiet, quiet], i.reqValid = false) := ⟨rfl, fun _ => ⟨rfl, .inr rfl⟩, by decide⟩
/-- Each clause: a cycle with a move, and one that changes the waiting request. -/
theorem witness_OnlyHostMovesRun :
    portNextIs (portCycle (withLatency 2) sinPort (haltedWith 0x80000)) (haltedWith 0x80000) = true ∧
      hostMayDrive sinPort (haltedWith 0x80000) ∧ (haltedWith 0x1).waiting = some 0x1 ∧ portReq sinPort ≠ 0x1 :=
  ⟨by decide, fun _ => ⟨rfl, .inr rfl⟩, rfl, by decide⟩
/-- Each clause: a request held, then accepted after a reset, and one changed. -/
theorem witness_PendingRequestWaitsUnchanged :
    Inv (haltedWith 0x80000).unit ∧ (haltedWith 0x80000).unit.fault = true ∧ (haltedWith 0x80000).waiting = some 0x80000 ∧
      (∀ i ∈ [sinPort, sinPort], (i.rst = false ∧ i.reqValid = true) ∧ portReq i = 0x80000) ∧
      (∀ i ∈ [{ sinPort with rst := true }, sinPort], i.reqValid = true ∧ portReq i = 0x80000) ∧ 0 < (withLatency 2).latency ∧
      (haltedWith 0x1).waiting = some 0x1 ∧ portReq sinPort ≠ 0x1 := ⟨inv_halted, by decide⟩
theorem witness_InstancesShareNoState :
    (match stepUnit [halted [], unitWith [.present 0x1]] 1 with
      | .next us => decide (us = [halted [], answered 0x1FFFF])
      | _ => false) = true := by decide

end Sys2Proof.Tests
end

section
/-! The scope obligations (00_scope.md R8, R10): what reaches a cycle, and the ranges of the datapath.

Every power and every term of the two polynomials is nonnegative and monotone in the reduced argument (`NonnegMono`), which
gives each its maximum at the largest argument, 262143, and bounds a sum over an interval by its terms at the two ends. The
three sums whose bound is nearly met are covered by intervals found by bisection. -/

namespace Sys2Proof.Proofs

open Sys2Proof.Machine

-- ## Only LATENCY reaches a cycle

theorem enqueue_eq_of_latency_eq {p p' : Params} (h : p.latency = p'.latency) : enqueue p = enqueue p' := by
  funext req s
  rw [enqueue, enqueue, h]

/-- Settles O47: a cycle reads its parameters in the test of `LATENCY` and in `enqueue`, which reads `LATENCY` alone. -/
theorem cycleDependsOnLatencyOnly : Obligations.CycleDependsOnLatencyOnly := by
  unfold Obligations.CycleDependsOnLatencyOnly
  intro p p' inp s h
  rw [cycle, cycle, enqueue_eq_of_latency_eq h, h]

-- ## Nonnegative monotone functions of the reduced argument

/-- `f` is nonnegative and monotone on the nonnegative integers, as every power and term of the datapath is. -/
def NonnegMono (f : Int → Int) : Prop := ∀ a b : Int, 0 ≤ a → a ≤ b → 0 ≤ f a ∧ f a ≤ f b

theorem NonnegMono.nonneg {f : Int → Int} (hf : NonnegMono f) {a : Int} (h : 0 ≤ a) : 0 ≤ f a :=
  (hf a a h le_rfl).1

theorem NonnegMono.le {f : Int → Int} (hf : NonnegMono f) {a b : Int} (h : 0 ≤ a) (hab : a ≤ b) : f a ≤ f b :=
  (hf a b h hab).2

/-- On the reduced arguments the value at the largest of them bounds every other. -/
theorem NonnegMono.bounds {f : Int → Int} (hf : NonnegMono f) {m x : Int} (hm : f 262143 ≤ m)
    (h0 : 0 ≤ x) (h1 : x < 2 ^ 18) : 0 ≤ f x ∧ f x ≤ m :=
  ⟨hf.nonneg h0, (hf.le h0 (by omega)).trans hm⟩

theorem NonnegMono.bounds_lt {f : Int → Int} (hf : NonnegMono f) {m x : Int} (hm : f 262143 < m)
    (h0 : 0 ≤ x) (h1 : x < 2 ^ 18) : 0 ≤ f x ∧ f x < m :=
  ⟨hf.nonneg h0, (hf.le h0 (by omega)).trans_lt hm⟩

theorem nonnegMono_id : NonnegMono fun x => x := fun _ _ h hab => ⟨h, hab⟩

theorem NonnegMono.powMul_comp {f g : Int → Int} (hf : NonnegMono f) (hg : NonnegMono g) :
    NonnegMono fun x => powMul (f x) (g x) := fun _ _ h hab =>
  ⟨powMul_nonneg (hf.nonneg h) (hg.nonneg h), powMul_le (hf.nonneg h) (hg.nonneg h) (hf.le h hab) (hg.le h hab)⟩

theorem NonnegMono.term_comp {f : Int → Int} (hf : NonnegMono f) {k : Int} (hk : 0 ≤ k) (n : Nat) :
    NonnegMono fun x => shr (k * f x) n := fun _ _ h hab =>
  ⟨term_nonneg n hk (hf.nonneg h), term_le n hk (hf.le h hab)⟩

theorem nonnegMono_powX2 : NonnegMono powX2 := nonnegMono_id.powMul_comp nonnegMono_id
theorem nonnegMono_sinX3 : NonnegMono sinX3 := nonnegMono_powX2.powMul_comp nonnegMono_id
theorem nonnegMono_sinX5 : NonnegMono sinX5 := nonnegMono_sinX3.powMul_comp nonnegMono_powX2
theorem nonnegMono_sinX7 : NonnegMono sinX7 := nonnegMono_sinX5.powMul_comp nonnegMono_powX2
theorem nonnegMono_cosX4 : NonnegMono cosX4 := nonnegMono_powX2.powMul_comp nonnegMono_powX2
theorem nonnegMono_cosX6 : NonnegMono cosX6 := nonnegMono_cosX4.powMul_comp nonnegMono_powX2
theorem nonnegMono_cosX8 : NonnegMono cosX8 := nonnegMono_cosX4.powMul_comp nonnegMono_cosX4

theorem nonnegMono_sinT1 : NonnegMono sinT1 := nonnegMono_id.term_comp (by decide) _
theorem nonnegMono_sinT3 : NonnegMono sinT3 := nonnegMono_sinX3.term_comp (by decide) _
theorem nonnegMono_sinT5 : NonnegMono sinT5 := nonnegMono_sinX5.term_comp (by decide) _
theorem nonnegMono_sinT7 : NonnegMono sinT7 := nonnegMono_sinX7.term_comp (by decide) _
theorem nonnegMono_cosT2 : NonnegMono cosT2 := nonnegMono_powX2.term_comp (by decide) _
theorem nonnegMono_cosT4 : NonnegMono cosT4 := nonnegMono_cosX4.term_comp (by decide) _
theorem nonnegMono_cosT6 : NonnegMono cosT6 := nonnegMono_cosX6.term_comp (by decide) _
theorem nonnegMono_cosT8 : NonnegMono cosT8 := nonnegMono_cosX8.term_comp (by decide) _

-- ## The ranges of 00_scope.md R10, row by row

section
variable {x : Int} (h0 : 0 ≤ x) (h1 : x < 2 ^ 18)
include h0 h1

theorem powX2_range : 0 ≤ powX2 x ∧ powX2 x ≤ 262142 := powX2_bounds h0 (by omega)
theorem sinX3_range : 0 ≤ sinX3 x ∧ sinX3 x < 2 ^ 18 := nonnegMono_sinX3.bounds_lt (by decide) h0 h1
theorem sinX5_range : 0 ≤ sinX5 x ∧ sinX5 x < 2 ^ 18 := nonnegMono_sinX5.bounds_lt (by decide) h0 h1
theorem sinX7_range : 0 ≤ sinX7 x ∧ sinX7 x < 2 ^ 18 := nonnegMono_sinX7.bounds_lt (by decide) h0 h1
theorem cosX4_range : 0 ≤ cosX4 x ∧ cosX4 x < 2 ^ 18 := nonnegMono_cosX4.bounds_lt (by decide) h0 h1
theorem cosX6_range : 0 ≤ cosX6 x ∧ cosX6 x < 2 ^ 18 := nonnegMono_cosX6.bounds_lt (by decide) h0 h1
theorem cosX8_range : 0 ≤ cosX8 x ∧ cosX8 x ≤ 262136 := nonnegMono_cosX8.bounds (by decide) h0 h1

theorem sinT1_range : 0 ≤ sinT1 x ∧ sinT1 x ≤ 411772 := nonnegMono_sinT1.bounds (by decide) h0 h1
theorem sinT3_range : 0 ≤ sinT3 x ∧ sinT3 x ≤ 169334 := nonnegMono_sinT3.bounds (by decide) h0 h1
theorem sinT5_range : 0 ≤ sinT5 x ∧ sinT5 x ≤ 20876 := nonnegMono_sinT5.bounds (by decide) h0 h1
theorem sinT7_range : 0 ≤ sinT7 x ∧ sinT7 x ≤ 1171 := nonnegMono_sinT7.bounds (by decide) h0 h1
theorem cosT2_range : 0 ≤ cosT2 x ∧ cosT2 x ≤ 323405 := nonnegMono_cosT2.bounds (by decide) h0 h1
theorem cosT4_range : 0 ≤ cosT4 x ∧ cosT4 x ≤ 66496 := nonnegMono_cosT4.bounds (by decide) h0 h1
theorem cosT6_range : 0 ≤ cosT6 x ∧ cosT6 x ≤ 5469 := nonnegMono_cosT6.bounds (by decide) h0 h1
theorem cosT8_range : 0 ≤ cosT8 x ∧ cosT8 x ≤ 236 := nonnegMono_cosT8.bounds (by decide) h0 h1

/-- The row of the powers: 18 bits unsigned each. -/
theorem powers_fit : ∀ y ∈ powersOf x, fitsUnsigned 18 y := by
  have hx2 := powX2_range h0 h1
  have hx8 := cosX8_range h0 h1
  simp only [powersOf, List.forall_mem_cons, fitsUnsigned]
  exact ⟨⟨hx2.1, by omega⟩, sinX3_range h0 h1, cosX4_range h0 h1, sinX5_range h0 h1, cosX6_range h0 h1,
    sinX7_range h0 h1, ⟨hx8.1, by omega⟩, by simp⟩

end

/-- A multiplier of two 18-bit unsigned operands needs 36 bits. -/
theorem fitsUnsigned_mul {v w : Int} (hv : fitsUnsigned 18 v) (hw : fitsUnsigned 18 w) : fitsUnsigned 36 (v * w) := by
  obtain ⟨hv0, hv1⟩ := hv
  obtain ⟨hw0, hw1⟩ := hw
  refine ⟨Int.mul_nonneg hv0 hw0, ?_⟩
  calc v * w < 2 ^ 18 * 2 ^ 18 := mul_lt_mul'' hv1 hw1 hv0 hw0
    _ = 2 ^ 36 := by norm_num

/-- The rows of the products, in the order of Machine/Widths.lean: 36 bits unsigned each. -/
theorem products_fit {x : Int} (h0 : 0 ≤ x) (h1 : x < 2 ^ 18) :
    (∀ v ∈ powProductsOf x, fitsUnsigned 36 v) ∧ (∀ v ∈ termProductsOf x, fitsUnsigned 36 v) := by
  have hx : fitsUnsigned 18 x := ⟨h0, h1⟩
  have hp := powers_fit h0 h1
  simp only [powersOf, List.forall_mem_cons] at hp
  obtain ⟨hx2, hx3, hx4, hx5, hx6, hx7, hx8, -⟩ := hp
  have mul_coeff {k v : Int} (hk : 0 ≤ k ∧ k < 2 ^ 18) (hv : fitsUnsigned 18 v) : fitsUnsigned 36 (k * v) :=
    fitsUnsigned_mul hk hv
  simp only [powProductsOf, termProductsOf, List.forall_mem_cons]
  exact ⟨⟨fitsUnsigned_mul hx hx, fitsUnsigned_mul hx2 hx, fitsUnsigned_mul hx2 hx2, fitsUnsigned_mul hx3 hx2,
      fitsUnsigned_mul hx4 hx2, fitsUnsigned_mul hx5 hx2, fitsUnsigned_mul hx4 hx4, by simp⟩,
    mul_coeff (by decide) hx, mul_coeff (by decide) hx2, mul_coeff (by decide) hx3, mul_coeff (by decide) hx4,
    mul_coeff (by decide) hx5, mul_coeff (by decide) hx6, mul_coeff (by decide) hx7, mul_coeff (by decide) hx8, by simp⟩

/-- Settles O17: each value is monotone in the reduced argument, so its maximum is the one at 262143, and every product is
one of two 18-bit operands. -/
theorem datapathFitsItsWidths : Obligations.DatapathFitsItsWidths := by
  unfold Obligations.DatapathFitsItsWidths
  intro x h0 h1
  obtain ⟨hpow, hterm⟩ := products_fit h0 h1
  have hk1 : coeffs.k1 * x ≤ 53971835841 := by
    show 205887 * x ≤ 53971835841
    omega
  refine ⟨powX2_range h0 h1, sinX3_range h0 h1, sinX5_range h0 h1, sinX7_range h0 h1, cosX4_range h0 h1,
    cosX6_range h0 h1, cosX8_range h0 h1, fun prod h => hpow prod ?_, fun prod h => hterm prod h, hk1,
    sinT1_range h0 h1, sinT3_range h0 h1, sinT5_range h0 h1, sinT7_range h0 h1, cosT2_range h0 h1, cosT4_range h0 h1,
    cosT6_range h0 h1, cosT8_range h0 h1⟩
  simp only [powProductsOf, List.mem_cons] at h ⊢
  tauto

-- ## The order of the powers and of the terms

/-- A power product rescales its left factor by at most 1. -/
theorem powMul_le_left {v w : Int} (hv : 0 ≤ v) (hw : fitsUnsigned 18 w) : powMul v w ≤ v := by
  refine Int.ediv_le_of_le_mul (by decide) ?_
  exact Int.mul_le_mul_of_nonneg_left hw.2.le hv

section
variable {x : Int} (h0 : 0 ≤ x) (h1 : x < 2 ^ 18)
include h0 h1

theorem sinX3_le : sinX3 x ≤ x := by
  have h : powMul x (powX2 x) ≤ x := powMul_le_left h0 (powers_fit h0 h1 _ (by simp [powersOf]))
  rwa [powMul, Int.mul_comm] at h

theorem sinX7_le_sinX5 : sinX7 x ≤ sinX5 x :=
  powMul_le_left (sinX5_range h0 h1).1 (powers_fit h0 h1 _ (by simp [powersOf]))

theorem cosX4_le_powX2 : cosX4 x ≤ powX2 x :=
  powMul_le_left (powX2_range h0 h1).1 (powers_fit h0 h1 _ (by simp [powersOf]))

theorem cosX6_le_cosX4 : cosX6 x ≤ cosX4 x :=
  powMul_le_left (cosX4_range h0 h1).1 (powers_fit h0 h1 _ (by simp [powersOf]))

theorem cosX8_le_cosX4 : cosX8 x ≤ cosX4 x :=
  powMul_le_left (cosX4_range h0 h1).1 (powers_fit h0 h1 _ (by simp [powersOf]))

theorem sinT3_le_sinT1 : sinT3 x ≤ sinT1 x := by
  have h := sinX3_le h0 h1
  simp only [sinT1, sinT3, coeffs, shr_eq]
  omega

theorem sinT7_le_sinT5 : sinT7 x ≤ sinT5 x := by
  have h := sinX7_le_sinX5 h0 h1
  have h5 := sinX5_range h0 h1
  simp only [sinT5, sinT7, coeffs, shr_eq]
  omega

theorem cosT6_le_cosT4 : cosT6 x ≤ cosT4 x := by
  have h := cosX6_le_cosX4 h0 h1
  have h4 := cosX4_range h0 h1
  simp only [cosT4, cosT6, coeffs, shr_eq]
  omega

/-- The two terms the cosine adds are together at most the first that it subtracts. -/
theorem cosT4_add_cosT8_le_cosT2 : cosT4 x + cosT8 x ≤ cosT2 x := by
  have h4 := cosX4_le_powX2 h0 h1
  have h8 := cosX8_le_cosX4 h0 h1
  have hx8 := cosX8_range h0 h1
  simp only [cosT2, cosT4, cosT8, coeffs, shr_eq]
  omega

end

-- ## The sums whose bound is nearly met, by bisection

/-- Bisection of `[a, a + 2 ^ d)`: `test` vouches for the whole interval, or each half is bisected. -/
def bisect (test : Int → Int → Bool) : Nat → Int → Bool
  | 0, a => test a a
  | d + 1, a => test a (a + 2 ^ (d + 1) - 1) || (bisect test d a && bisect test d (a + 2 ^ d))

/-- Where the test of an interval gives `P` at each of its points, so does a bisection. -/
theorem of_bisect {test : Int → Int → Bool} {P : Int → Prop}
    (sound : ∀ a b x, 0 ≤ a → a ≤ x → x ≤ b → test a b = true → P x) :
    ∀ (d : Nat) (a x : Int), 0 ≤ a → bisect test d a = true → a ≤ x → x < a + 2 ^ d → P x
  | 0, a, x, ha, h, hax, hxb => sound a a x ha hax (by omega) h
  | d + 1, a, x, ha, h, hax, hxb => by
    have hd : (0 : Int) < 2 ^ d := by positivity
    simp only [bisect, Bool.or_eq_true, Bool.and_eq_true] at h
    rcases h with h | ⟨hlow, hhigh⟩
    · exact sound a _ x ha hax (by omega) h
    · rcases lt_or_ge x (a + 2 ^ d) with hx | hx
      · exact of_bisect sound d a x ha hlow hax hx
      · exact of_bisect sound d _ x (by omega) hhigh hx (by omega)

/-- On `[a, b]` the sine sum of three terms is at most 263315, each term taken at the end where it adds most. -/
def sinThreeTermsTest (a b : Int) : Bool := sinT1 b - sinT3 a + sinT5 b ≤ 263315

/-- On `[a, b]` the final sine sum is at most 2^18, likewise. -/
def sinSumTest (a b : Int) : Bool := sinT1 b - sinT3 a + sinT5 b - sinT7 a ≤ 2 ^ 18

/-- On `[a, b]` the final cosine sum is at least 2, likewise. -/
def cosSumTest (a b : Int) : Bool := 2 ≤ 2 ^ 18 - cosT2 b + cosT4 a - cosT6 b + cosT8 a

theorem bisect_sinThreeTermsTest : bisect sinThreeTermsTest 18 0 = true := by decide +kernel
theorem bisect_sinSumTest : bisect sinSumTest 18 0 = true := by decide +kernel
theorem bisect_cosSumTest : bisect cosSumTest 18 0 = true := by decide +kernel

section
variable {x : Int} (h0 : 0 ≤ x) (h1 : x < 2 ^ 18)
include h0 h1

theorem sinThreeTerms_le : sinT1 x - sinT3 x + sinT5 x ≤ 263315 := by
  refine of_bisect (P := fun x => sinT1 x - sinT3 x + sinT5 x ≤ 263315) (fun a b x ha hax hxb h => ?_)
    18 0 x le_rfl bisect_sinThreeTermsTest h0 (by omega)
  have ht1 := nonnegMono_sinT1.le (ha.trans hax) hxb
  have ht3 := nonnegMono_sinT3.le ha hax
  have ht5 := nonnegMono_sinT5.le (ha.trans hax) hxb
  simp only [sinThreeTermsTest, decide_eq_true_eq] at h
  omega

theorem sinSum_le : sinSum x ≤ 2 ^ 18 := by
  refine of_bisect (P := fun x => sinSum x ≤ 2 ^ 18) (fun a b x ha hax hxb h => ?_)
    18 0 x le_rfl bisect_sinSumTest h0 (by omega)
  have ht1 := nonnegMono_sinT1.le (ha.trans hax) hxb
  have ht3 := nonnegMono_sinT3.le ha hax
  have ht5 := nonnegMono_sinT5.le (ha.trans hax) hxb
  have ht7 := nonnegMono_sinT7.le ha hax
  simp only [sinSumTest, decide_eq_true_eq] at h
  simp only [sinSum]
  omega

theorem le_cosSum : 2 ≤ cosSum x := by
  refine of_bisect (P := fun x => 2 ≤ cosSum x) (fun a b x ha hax hxb h => ?_)
    18 0 x le_rfl bisect_cosSumTest h0 (by omega)
  have ht2 := nonnegMono_cosT2.le (ha.trans hax) hxb
  have ht4 := nonnegMono_cosT4.le ha hax
  have ht6 := nonnegMono_cosT6.le (ha.trans hax) hxb
  have ht8 := nonnegMono_cosT8.le ha hax
  simp only [cosSumTest, decide_eq_true_eq] at h
  simp only [cosSum]
  omega

theorem sinSum_range : 0 ≤ sinSum x ∧ sinSum x ≤ 262144 := by
  refine ⟨?_, sinSum_le h0 h1⟩
  have h31 := sinT3_le_sinT1 h0 h1
  have h75 := sinT7_le_sinT5 h0 h1
  simp only [sinSum]
  omega

theorem cosSum_range : 2 ≤ cosSum x ∧ cosSum x ≤ 262144 := by
  refine ⟨le_cosSum h0 h1, ?_⟩
  have h48 := cosT4_add_cosT8_le_cosT2 h0 h1
  have h6 := (cosT6_range h0 h1).1
  simp only [cosSum]
  omega

end

/-- Settles O18: the lower bounds and the cosine's upper bound by the order of the terms, the rest by bisection. -/
theorem sumsStayInTheirRanges : Obligations.SumsStayInTheirRanges := by
  unfold Obligations.SumsStayInTheirRanges
  intro x h0 h1
  have hsin := sinSum_range h0 h1
  have hcos := cosSum_range h0 h1
  have hthree := sinThreeTerms_le h0 h1
  have h31 := sinT3_le_sinT1 h0 h1
  have ht5 := sinT5_range h0 h1
  have ht2 := cosT2_range h0 h1
  have ht4 := cosT4_range h0 h1
  have ht6 := cosT6_range h0 h1
  have ht8 := cosT8_range h0 h1
  have h64 := cosT6_le_cosT4 h0 h1
  have h48 := cosT4_add_cosT8_le_cosT2 h0 h1
  refine ⟨?_, ?_, hsin, hcos⟩
  · simp only [List.forall_mem_cons]
    exact ⟨by omega, by omega, by omega, by simp⟩
  · simp only [List.forall_mem_cons]
    exact ⟨by omega, by omega, by omega, by omega, by simp⟩

-- ## Every angle

theorem sinPeaked_range (angle : Angle) : 0 ≤ sinPeaked angle ∧ sinPeaked angle ≤ 131072 := by
  have h := sinSum_range (fold_nonneg angle) (fold_lt angle)
  unfold sinPeaked
  split
  · decide
  · rw [shr_eq]
    omega

theorem cosZeroed_range (angle : Angle) : 0 ≤ cosZeroed angle ∧ cosZeroed angle ≤ 131072 := by
  have h := cosSum_range (fold_nonneg angle) (fold_lt angle)
  unfold cosZeroed
  split
  · decide
  · rw [shr_eq]
    omega

/-- The value SIN hands to the clamp, of either sign. -/
theorem sinY_range (angle : Angle) : -131072 ≤ sinY angle ∧ sinY angle ≤ 131072 := by
  have h := sinPeaked_range angle
  unfold sinY neg
  split <;> omega

/-- The value COS hands to the clamp, of either sign. -/
theorem cosY_range (angle : Angle) : -131072 ≤ cosY angle ∧ cosY angle ≤ 131072 := by
  have h := cosZeroed_range angle
  unfold cosY neg
  split <;> omega

/-- The two's complement range in one power of two. -/
theorem fitsSigned_succ_iff (n : Nat) (v : Int) : fitsSigned (n + 1) v ↔ -2 ^ n ≤ v ∧ v < 2 ^ n := by
  simp only [fitsSigned, minOf, maxOf, Nat.add_sub_cancel, Int.le_sub_one_iff]

/-- Settles O19: the rows of O17 and O18 at the folded angle, which is a reduced argument. -/
theorem everyAngleFitsTheDatapath : Obligations.EveryAngleFitsTheDatapath := by
  unfold Obligations.EveryAngleFitsTheDatapath
  intro angle
  have h0 := fold_nonneg angle
  have h1 := fold_lt angle
  obtain ⟨hpow, hterm⟩ := products_fit h0 h1
  obtain ⟨hsin, hcos, -, -⟩ := sumsStayInTheirRanges (fold angle) h0 h1
  simp only [List.forall_mem_cons] at hsin hcos
  have ht1 := sinT1_range h0 h1
  have ht3 := sinT3_range h0 h1
  have ht5 := sinT5_range h0 h1
  have ht7 := sinT7_range h0 h1
  have ht2 := cosT2_range h0 h1
  have ht4 := cosT4_range h0 h1
  have ht6 := cosT6_range h0 h1
  have ht8 := cosT8_range h0 h1
  have hsinY := sinY_range angle
  have hcosY := cosY_range angle
  exact {
    argument := ⟨h0, h1⟩
    powers := powers_fit h0 h1
    powProducts := hpow
    termProducts := hterm
    sinTerms := by
      simp only [sinTermsOf, List.forall_mem_cons, fitsUnsigned]
      exact ⟨by omega, by omega, by omega, by omega, by simp⟩
    cosTerms := by
      simp only [cosTermsOf, List.forall_mem_cons, fitsUnsigned]
      exact ⟨by omega, by omega, by omega, by omega, by simp⟩
    sinPartials := by
      simp only [sinPartialsOf, List.forall_mem_cons, fitsSigned_succ_iff]
      exact ⟨by omega, by omega, by omega, by omega, by simp⟩
    cosPartials := by
      simp only [cosPartialsOf, List.forall_mem_cons, fitsSigned_succ_iff]
      exact ⟨by omega, by omega, by omega, by omega, by omega, by simp⟩
    clamped := by
      simp only [fitsSigned_succ_iff]
      exact ⟨by omega, by omega⟩ }

end Sys2Proof.Proofs
end

section
/-! The state obligations (10_state.md): the invariants, the transaction step, a run of requests, and the cycles of a unit with
requests in flight.

A cycle is one tick, the due answer (`answerDue`) and an acceptance (`enqueue`). Each of the three is given its effect on the
invariant, on the time left of the requests in flight (`DueWithin`), and on the unit as one that answers at acceptance
(`settled`, `pendingAnswers`); the cycle statements are these effects one after the other. -/

namespace Sys2Proof.Proofs

open Sys2Proof.Machine

-- ## The fields of STATUS and RESULT

/-- Settles O35: by the definition of the reset state. -/
theorem resetValues : Obligations.ResetValues := by
  unfold Obligations.ResetValues
  exact ⟨rfl, rfl, rfl, rfl, rfl⟩

theorem getLsbD_status (s : State) (i : Nat) :
    (status s).getLsbD i =
      if i < 1 then (BitVec.ofBool s.fault).getLsbD i
      else if i - 1 < 2 then s.cause.getLsbD (i - 1)
      else (BitVec.ofBool s.valid).getLsbD (i - 1 - 2) := by
  rw [← BitVec.getLsbD_append, ← BitVec.getLsbD_append]
  rfl

/-- Settles O43: the three fields stand side by side, at widths 1, 2 and 1. -/
theorem statusFieldPlaces : Obligations.StatusFieldPlaces := by
  unfold Obligations.StatusFieldPlaces
  intro s
  refine ⟨?_, ?_, ?_⟩
  · exact (getLsbD_status s 0).trans (by simp)
  · apply BitVec.eq_of_getLsbD_eq
    intro i hi
    simp [getLsbD_status, hi, Nat.add_comm 1 i]
  · exact (getLsbD_status s 3).trans (by simp)

theorem readResult_of_result {s : State} {r : Res} (hv : s.valid = true) (hr : s.result = some r) :
    readResult s = .ok r := by
  simp [readResult, hv, hr]

theorem readResult_of_not_valid {s : State} (hv : s.valid = false) : readResult s = .error .resultHasNoValue := by
  simp [readResult, hv]

/-- Settles O44: in a state with the invariant `VALID` says whether `RESULT` holds a value. -/
theorem resultReadableWhileValid : Obligations.ResultReadableWhileValid := by
  unfold Obligations.ResultReadableWhileValid
  intro s h
  refine ⟨fun hv => ?_, readResult_of_not_valid⟩
  obtain ⟨r, hr⟩ := Option.isSome_iff_exists.1 (h.valid_iff.symm.trans hv)
  exact ⟨r, hr, readResult_of_result hv hr⟩

-- ## What a request answers

/-- No value that SIN or COS hands to the clamp reaches CLAMP_POST. -/
theorem clampResult_of_range {v : Int} (h : -131072 ≤ v ∧ v ≤ 131072) : ∃ r, clampResult v = .ok r := by
  rcases clampTo18_cases v with ⟨-, -, hc⟩ | ⟨-, -, hc⟩ | ⟨-, -, -, hc⟩ | ⟨heq, hout, -⟩
  · exact ⟨_, clampResult_of_ok hc⟩
  · exact ⟨_, clampResult_of_ok hc⟩
  · exact ⟨_, clampResult_of_ok hc⟩
  · omega

theorem sinOp_ok (angle : Angle) : ∃ r, sinOp angle = .ok r := clampResult_of_range (sinY_range angle)

theorem cosOp_ok (angle : Angle) : ∃ r, cosOp angle = .ok r := clampResult_of_range (cosY_range angle)

/-- `op` alone selects the operation, which reads one operand field (30_encoding.md R50, R53). -/
theorem outcomeOf_eq (req : ReqWord) :
    outcomeOf req =
      if opField req = 0 then sinOp (angleField req)
      else if opField req = 1 then cosOp (angleField req)
      else if opField req = 2 then clampOp (accField req)
      else .error .illegalOp := by
  unfold outcomeOf decode
  split_ifs <;> rfl

theorem outcomeOf_congr {req req' : ReqWord} (hop : opField req = opField req')
    (hangle : opField req = 0 ∨ opField req = 1 → angleField req = angleField req')
    (hacc : opField req = 2 → accField req = accField req') : outcomeOf req = outcomeOf req' := by
  rw [outcomeOf_eq, outcomeOf_eq, ← hop]
  split_ifs with h0 h1 h2
  · rw [hangle (.inl h0)]
  · rw [hangle (.inr h1)]
  · rw [hacc h2]
  · rfl

/-- The frame of a result (10_state.md R34, R94). -/
theorem respond_frame (r : Res) (s : State) :
    ∃ r', (respond r s).result = some r' ∧ (respond r s).resp = some r' ∧ (respond r s).valid = true ∧
      (respond r s).fault = s.fault ∧ (respond r s).cause = s.cause ∧ (respond r s).inFlight = s.inFlight :=
  ⟨r, rfl, rfl, rfl, rfl, rfl, rfl⟩

/-- Settles O27: SIN and COS always have a result, and the only cause that CLAMP raises is CLAMP_POST. -/
theorem requestFrame : Obligations.RequestFrame := by
  unfold Obligations.RequestFrame
  intro i s t h
  cases i with
  | sin angle acc =>
    obtain ⟨r, hr⟩ := sinOp_ok angle
    rw [exec_sin, hr] at h
    cases h
    exact ⟨rfl, rfl, .inl (respond_frame r s)⟩
  | cos angle acc =>
    obtain ⟨r, hr⟩ := cosOp_ok angle
    rw [exec_cos, hr] at h
    cases h
    exact ⟨rfl, rfl, .inl (respond_frame r s)⟩
  | clamp angle acc =>
    rw [exec_clamp] at h
    rcases ho : clampOp acc with c | r <;> rw [ho] at h <;> cases h
    · obtain rfl : c = .clampPost := clampResult_error ho
      exact ⟨rfl, rfl, .inr ⟨⟨angle, acc, rfl⟩, rfl, rfl, rfl, rfl, rfl, rfl⟩⟩
    · exact ⟨rfl, rfl, .inl (respond_frame r s)⟩

-- ## The transaction step

/-- The unit accepts requests (10_state.md R23): it was reset, and is neither faulted nor in the reserved cause. -/
structure Ready (s : State) : Prop where
  wasReset : s.wasReset = true
  fault : s.fault = false
  cause : s.cause ≠ 3

theorem Ready.noMove {s : State} (h : Ready s) : noMove s = none := (noMove_eq_none_iff s).2 ⟨h.wasReset, h.cause⟩

/-- Without a reset, a unit that accepts requests takes the accepting step. -/
theorem Ready.step_eq {s : State} (h : Ready s) (hr : ∀ rest, s.host ≠ .applyReset :: rest) :
    step s = acceptingStep s := by
  unfold step transaction
  split
  · rename_i rest hh
    exact absurd hh (hr rest)
  · simp [h.noMove, accepts, h.fault]

theorem Ready.step_of_present {s : State} {req : ReqWord} {rest : List HostAction} (h : Ready s)
    (hh : s.host = .present req :: rest) (he : s.inFlight = []) : step s = perform req { s with host := rest } := by
  rw [h.step_eq (by simp [hh])]
  simp [acceptingStep, he, hh]

theorem Ready.step_of_inFlight {s : State} {f : InFlight} {fs : List InFlight} (h : Ready s)
    (hr : ∀ rest, s.host ≠ .applyReset :: rest) (hfl : s.inFlight = f :: fs) :
    step s = perform f.req { s with inFlight := fs } := by
  rw [h.step_eq hr]
  simp [acceptingStep, hfl]

theorem perform_of_decode {req : ReqWord} {i : Instr} (h : decode req = .instr i) (s : State) :
    perform req s = exec i s := by
  simp [perform, h]

/-- Settles O30: both clauses are the accepting step, at the request it takes. -/
theorem stepRunsDecodedRequest : Obligations.StepRunsDecodedRequest := by
  unfold Obligations.StepRunsDecodedRequest
  intro s i hw hf hc
  have h : Ready s := ⟨hw, hf, hc⟩
  refine ⟨fun req rest hh he hd => ?_, fun f fs hr hfl hd => ?_⟩
  · rw [h.step_of_present hh he, perform_of_decode hd]
  · rw [h.step_of_inFlight hr hfl, perform_of_decode hd]

/-- A step that answers, of a request presented with nothing in flight, ends in the request's outcome. -/
theorem eq_finish_of_step_present {s t : State} {req : ReqWord} {rest : List HostAction}
    (hh : s.host = .present req :: rest) (he : s.inFlight = []) (h : step s = .next t) :
    t = finish (outcomeOf req) { s with host := rest } := by
  rcases step_cases h with ⟨_, hr, -⟩ | ⟨-, _, _, hfl, -⟩ | ⟨-, -, _, _, hp, ht⟩ | ⟨-, hn, -⟩
  · simp [hh] at hr
  · simp [he] at hfl
  · rw [hh] at hp
    cases hp
    exact ht
  · simp [hh] at hn

/-- Settles O41: both steps end in the outcome of the request, which is the same for both words. -/
theorem resultDependsOnlyOnRequest : Obligations.ResultDependsOnlyOnRequest := by
  unfold Obligations.ResultDependsOnlyOnRequest
  intro s s' t t' req req' rest rest' hh hh' he he' hf hf' hop hangle hacc ht ht'
  rw [eq_finish_of_step_present hh he ht, eq_finish_of_step_present hh' he' ht', outcomeOf_congr hop hangle hacc]
  cases outcomeOf req' with
  | ok r => simp [hf, hf']
  | error c => simp

-- ## The architectural invariant

theorem inv_applyReset (s : State) : Inv (applyReset s) := by
  constructor <;> simp

/-- The end of a request makes the invariant of a unit that accepts requests, whatever `RESULT` held and wherever the request
was taken from. -/
theorem inv_finish {s : State} (h : Inv s) (hf : s.fault = false) (fs : List InFlight) (acts : List HostAction)
    (o : Except FaultCause Res) : Inv (finish o { s with inFlight := fs, host := acts }) := by
  have hc := h.cause_iff.2 hf
  cases o <;> constructor <;> simp [hf, hc]

theorem inv_idle {s : State} (h : Inv s) : Inv (idle s) where
  valid_iff := h.valid_iff
  cause_iff := h.cause_iff
  cause_legal := h.cause_legal
  fault_invalid := h.fault_invalid
  fault_empty := h.fault_empty
  resp_result := by simp

theorem inv_tick {s : State} (h : Inv s) : Inv (tick s) where
  valid_iff := h.valid_iff
  cause_iff := h.cause_iff
  cause_legal := h.cause_legal
  fault_invalid := h.fault_invalid
  fault_empty hf := by simp [h.fault_empty hf]
  resp_result := by simp

theorem inv_enqueue {s : State} (h : Inv s) (hf : s.fault = false) (p : Params) (req : ReqWord) :
    Inv (enqueue p req s) where
  valid_iff := h.valid_iff
  cause_iff := h.cause_iff
  cause_legal := h.cause_legal
  fault_invalid := h.fault_invalid
  fault_empty hf' := by simp [hf] at hf'
  resp_result := h.resp_result

/-- Settles O39: the reset state is a state after reset. -/
theorem invariantAtReset : Obligations.InvariantAtReset := inv_applyReset State.reset

/-- Settles O40: each of the ends of a step makes or keeps the invariant. -/
theorem stepKeepsInvariant : Obligations.StepKeepsInvariant := by
  unfold Obligations.StepKeepsInvariant
  intro s t h hst
  rcases step_cases hst with ⟨_, -, rfl⟩ | ⟨hf, f, fs, -, rfl⟩ | ⟨hf, -, req, rest, -, rfl⟩ | ⟨rfl, -⟩
  · exact inv_applyReset _
  · exact inv_finish h hf _ _ _
  · exact inv_finish h hf _ _ _
  · exact inv_idle h

-- ## A run of requests

/-- The steps of presented requests that all have a result, before anything else that the host does: they are taken in order,
and the unit still accepts requests. -/
theorem run_of_ok {reqs : List ReqWord} {rest : List HostAction} {s : State} (h : Ready s) (he : s.inFlight = [])
    (hh : s.host = reqs.map .present ++ rest) (hok : ∀ q ∈ reqs, ∃ r, outcomeOf q = .ok r) :
    ∃ t, Ready t ∧ t.inFlight = [] ∧ t.host = rest ∧ archOf t = reqs.foldl archStep (archOf s) ∧
      ∀ m, Host.Core.run Sys2Proof.core (reqs.length + m) s = Host.Core.run Sys2Proof.core m t := by
  induction reqs generalizing s with
  | nil => exact ⟨s, h, he, by simpa using hh, rfl, by simp⟩
  | cons req reqs ih =>
    obtain ⟨⟨r, hr⟩, hoks⟩ := List.forall_mem_cons.1 hok
    have hstep : step s = .next (respond r { s with host := reqs.map .present ++ rest }) := by
      rw [h.step_of_present hh he, perform_eq, hr]
      rfl
    have harch : archOf (respond r s) = archStep (archOf s) req := by
      rw [← archOf_finish req h.fault, hr, finish_ok]
    obtain ⟨t, ht, hte, hth, hta, hrun⟩ := ih (s := respond r { s with host := reqs.map .present ++ rest })
      ⟨h.wasReset, h.fault, h.cause⟩ he rfl hoks
    refine ⟨t, ht, hte, hth, ?_, fun m => ?_⟩
    · rw [hta, List.foldl_cons, ← harch]
      rfl
    · rw [List.length_cons, Nat.add_right_comm]
      exact (run_succ_of_next hstep).trans (hrun m)

/-- Settles O42: the requests before the k-th are taken in order, and then it is answered by its outcome. -/
theorem runAnswersRequestsInOrder : Obligations.RunAnswersRequestsInOrder := by
  unfold Obligations.RunAnswersRequestsInOrder
  intro reqs s hw hf hc he hh
  have h : Ready s := ⟨hw, hf, hc⟩
  refine ⟨fun k req hk hok => ?_, fun hok => ?_⟩
  · obtain ⟨hlt, hget⟩ := List.getElem?_eq_some_iff.1 hk
    have hsplit : reqs = reqs.take k ++ req :: reqs.drop (k + 1) := by
      rw [← hget, ← List.drop_eq_getElem_cons hlt, List.take_append_drop]
    obtain ⟨t, ht, hte, hth, -, hrun⟩ := run_of_ok (rest := (req :: reqs.drop (k + 1)).map .present) h he
      (by rw [← List.map_append, ← hsplit, hh]) hok
    have hstep : step t = .next (finish (outcomeOf req) { t with host := (reqs.drop (k + 1)).map .present }) :=
      (ht.step_of_present hth hte).trans (perform_eq _ _)
    have hlen : (reqs.take k).length = k := List.length_take_of_le hlt.le
    refine ⟨finish (outcomeOf req) { t with host := (reqs.drop (k + 1)).map .present }, ?_, by simp, fun r hr => ?_,
      fun c hc => ?_⟩
    · rw [hlen] at hrun
      exact (hrun 1).trans (run_succ_of_next hstep)
    · simp [hr, ht.fault]
    · simp [hc]
  · obtain ⟨t, ht, hte, hth, hta, hrun⟩ := run_of_ok (rest := []) h he (by simpa using hh) hok
    exact ⟨t, hrun 0, hta, .inr ⟨hte, hth⟩, ht.fault⟩

-- ## The due answer

theorem answerDue_of_nil {s : State} (he : s.inFlight = []) : answerDue s = .next s := by
  simp [answerDue, he]

theorem answerDue_of_due {s : State} {f : InFlight} {fs : List InFlight} (hfl : s.inFlight = f :: fs) (h0 : f.left = 0) :
    answerDue s = .next (finish (outcomeOf f.req) { s with inFlight := fs }) := by
  simp [answerDue, hfl, h0, perform_eq]

theorem answerDue_of_not_due {s : State} {f : InFlight} {fs : List InFlight} (hfl : s.inFlight = f :: fs)
    (h0 : f.left ≠ 0) : answerDue s = .next s := by
  simp [answerDue, hfl, h0]

/-- Everything a due answer can be: the end of the oldest request, or nothing. -/
theorem answerDue_next_cases {s t : State} (h : answerDue s = .next t) :
    (∃ f fs, s.inFlight = f :: fs ∧ t = finish (outcomeOf f.req) { s with inFlight := fs }) ∨
    ((∀ f fs, s.inFlight = f :: fs → f.left ≠ 0) ∧ t = s) := by
  rcases answerDue_cases s with ⟨f, fs, hfl, -, ha⟩ | ⟨hne, ha⟩
  · exact .inl ⟨f, fs, hfl, (Host.Outcome.next.inj (ha.symm.trans h)).symm⟩
  · exact .inr ⟨hne, (Host.Outcome.next.inj (ha.symm.trans h)).symm⟩

-- ## When the requests in flight are due

/-- The requests in flight are due in acceptance order, no two together, each in `lo` to `hi - 1` cycles. -/
def DueWithin (lo hi : Nat) (fs : List InFlight) : Prop :=
  (fs.Pairwise fun f g => f.left < g.left) ∧ ∀ f ∈ fs, lo ≤ f.left ∧ f.left < hi

theorem cycleInv_iff (p : Params) (s : State) :
    CycleInv p s ↔ Inv s ∧ DueWithin 1 (p.latency + 1) s.inFlight := by
  simp only [DueWithin, Nat.lt_succ_iff]
  exact ⟨fun ⟨ha, ho, hb⟩ => ⟨ha, ho, hb⟩, fun ⟨ha, ho, hb⟩ => ⟨ha, ho, hb⟩⟩

theorem dueWithin_nil (lo hi : Nat) : DueWithin lo hi [] := by simp [DueWithin]

/-- A request in flight puts every younger one behind it. -/
theorem DueWithin.tail {lo hi : Nat} {f : InFlight} {fs : List InFlight} (h : DueWithin lo hi (f :: fs)) :
    DueWithin (f.left + 1) hi fs := by
  obtain ⟨ho, hb⟩ := h
  obtain ⟨hlt, hos⟩ := List.pairwise_cons.1 ho
  exact ⟨hos, fun g hg => ⟨hlt g hg, (hb g (List.mem_cons_of_mem _ hg)).2⟩⟩

theorem DueWithin.mono {lo lo' hi hi' : Nat} {fs : List InFlight} (h : DueWithin lo hi fs) (hlo : lo' ≤ lo)
    (hhi : hi ≤ hi') : DueWithin lo' hi' fs :=
  ⟨h.1, fun f hf => ⟨hlo.trans (h.2 f hf).1, (h.2 f hf).2.trans_le hhi⟩⟩

theorem DueWithin.sublist {lo hi : Nat} {fs gs : List InFlight} (h : DueWithin lo hi gs) (hs : fs.Sublist gs) :
    DueWithin lo hi fs :=
  ⟨h.1.sublist hs, fun f hf => h.2 f (hs.subset hf)⟩

theorem DueWithin.tick {s : State} {lo hi : Nat} (h : DueWithin (lo + 1) (hi + 1) s.inFlight) :
    DueWithin lo hi (tick s).inFlight := by
  obtain ⟨ho, hb⟩ := h
  rw [tick_inFlight]
  refine ⟨List.pairwise_map.2 (ho.imp_of_mem fun hf hg hlt => ?_), List.forall_mem_map.2 fun f hf => ?_⟩
  · have := hb _ hf
    have := hb _ hg
    simp only
    omega
  · have := hb f hf
    simp only
    omega

/-- Where the oldest request is not due, none is. -/
theorem DueWithin.of_head_ne_zero {hi : Nat} {fs : List InFlight} (h : DueWithin 0 hi fs)
    (hne : ∀ f gs, fs = f :: gs → f.left ≠ 0) : DueWithin 1 hi fs := by
  cases fs with
  | nil => exact dueWithin_nil _ _
  | cons f gs =>
    refine ⟨h.1, List.forall_mem_cons.2 ⟨⟨Nat.pos_of_ne_zero (hne f gs rfl), (h.2 f (by simp)).2⟩, fun g hg => ?_⟩⟩
    obtain ⟨hlo, hhi⟩ := h.tail.2 g hg
    exact ⟨by omega, hhi⟩

theorem DueWithin.append {lo hi : Nat} {fs : List InFlight} (h : DueWithin lo hi fs) (hle : lo ≤ hi) (req : ReqWord) :
    DueWithin lo (hi + 1) (fs ++ [{ req := req, left := hi }]) := by
  refine ⟨List.pairwise_append.2 ⟨h.1, List.pairwise_singleton _ _, fun f hf g hg => ?_⟩, fun f hf => ?_⟩
  · rw [List.mem_singleton.1 hg]
    exact (h.2 f hf).2
  · rcases List.mem_append.1 hf with hf | hf
    · have := h.2 f hf
      omega
    · rw [List.mem_singleton.1 hf]
      exact ⟨hle, Nat.lt_succ_self hi⟩

-- ## The parts of a cycle keep the invariant

/-- The end of a request keeps the requests behind it or discards them. -/
theorem finish_inFlight_sublist (o : Except FaultCause Res) (s : State) : (finish o s).inFlight.Sublist s.inFlight := by
  cases o with
  | ok r => exact List.Sublist.refl _
  | error c => exact List.nil_sublist _

/-- A request in flight is in a unit that is not faulted. -/
theorem fault_of_inFlight_cons {s : State} {f : InFlight} {fs : List InFlight} (h : Inv s)
    (hfl : s.inFlight = f :: fs) : s.fault = false :=
  Bool.eq_false_iff.2 fun hf => by simp [h.fault_empty hf] at hfl

theorem inv_answerDue {s t : State} (h : Inv s) (ht : answerDue s = .next t) : Inv t := by
  rcases answerDue_next_cases ht with ⟨f, fs, hfl, rfl⟩ | ⟨-, rfl⟩
  · exact inv_finish h (fault_of_inFlight_cons h hfl) _ _ _
  · exact h

/-- After the due answer nothing more is due in this cycle. -/
theorem dueWithin_answerDue {s t : State} {hi : Nat} (h : DueWithin 0 hi s.inFlight) (ht : answerDue s = .next t) :
    DueWithin 1 hi t.inFlight := by
  rcases answerDue_next_cases ht with ⟨f, fs, hfl, rfl⟩ | ⟨hne, rfl⟩
  · rw [hfl] at h
    exact (h.tail.sublist (finish_inFlight_sublist _ _)).mono (by omega) le_rfl
  · exact h.of_head_ne_zero hne

/-- The due answer at the start of a cycle leaves the invariant, with a place free for a request that is accepted. -/
theorem answerDue_tick_keeps {p : Params} {s t : State} (h : CycleInv p s) (ht : answerDue (tick s) = .next t) :
    Inv t ∧ DueWithin 1 p.latency t.inFlight := by
  obtain ⟨ha, hd⟩ := (cycleInv_iff p s).1 h
  exact ⟨inv_answerDue (inv_tick ha) ht, dueWithin_answerDue hd.tick ht⟩

theorem cycleInv_applyReset (p : Params) (s : State) : CycleInv p (applyReset s) :=
  (cycleInv_iff p _).2 ⟨inv_applyReset s, dueWithin_nil _ _⟩

/-- Settles O50: the reset state is a state after reset. -/
theorem cycleInvariantAtReset : Obligations.CycleInvariantAtReset := fun p => cycleInv_applyReset p State.reset

/-- Settles O49: the due answer frees the last place, which the accepted request takes; with `LATENCY = 0` the request is due
at once and leaves it. -/
theorem cycleKeepsInvariant : Obligations.CycleKeepsInvariant := by
  unfold Obligations.CycleKeepsInvariant
  intro p inp s t h ht
  rcases cycle_cases ht with ⟨-, -, rfl⟩ | ⟨-, -, -, s', hs', hrest⟩
  · exact cycleInv_applyReset p s
  · obtain ⟨ha, hd⟩ := answerDue_tick_keeps h hs'
    rw [cycleInv_iff]
    rcases hrest with ⟨-, hf, hl, rfl⟩ | ⟨-, hf, hl, ht⟩ | ⟨-, rfl⟩
    · exact ⟨inv_enqueue ha hf _ _, hd.append (Nat.one_le_iff_ne_zero.2 hl) _⟩
    · refine ⟨inv_answerDue (inv_enqueue ha hf _ _) ht, dueWithin_answerDue ?_ ht⟩
      exact (hd.mono (Nat.zero_le 1) le_rfl).append (Nat.zero_le _) _
    · exact ⟨ha, hd.mono le_rfl (Nat.le_succ _)⟩

/-- Settles O45: a response comes with its value in `RESULT`, which makes `VALID` 1 and so excludes the fault state. -/
theorem outputsFollowTheState : Obligations.OutputsFollowTheState := by
  unfold Obligations.OutputsFollowTheState
  intro p inp s t h ht
  have ha : Inv t := (cycleKeepsInvariant p inp s t h ht).arch
  refine ⟨rfl, rfl, rfl, rfl, fun hv => ?_⟩
  obtain ⟨r, hr⟩ : ∃ r, t.resp = some r := Option.isSome_iff_exists.1 hv
  have hres : t.result = some r := ha.resp_result r hr
  have hvalid : t.valid = true := by rw [ha.valid_iff, hres]; rfl
  have hfault : t.fault = false := Bool.eq_false_iff.2 fun hf => by simp [ha.fault_invalid hf] at hvalid
  exact ⟨hres.trans hr.symm, hvalid, hfault⟩

-- ## The unit as one that answers at acceptance

theorem settled_tick (s : State) : settled (tick s) = settled s := by
  simp [settled, archOf, Function.comp_def]

theorem pendingAnswers_tick (s : State) : pendingAnswers (tick s) = pendingAnswers s := by
  simp [pendingAnswers, archOf, Function.comp_def]

theorem settled_enqueue (p : Params) (req : ReqWord) (s : State) :
    settled (enqueue p req s) = archStep (settled s) req := by
  simp [settled, archOf]

theorem pendingAnswers_enqueue (p : Params) (req : ReqWord) (s : State) :
    pendingAnswers (enqueue p req s) = pendingAnswers s ++ answers (settled s) [req] := by
  rw [pendingAnswers, enqueue_inFlight, List.map_append, answers_append]
  rfl

/-- A halted unit with nothing in flight is settled. -/
theorem settled_of_fault {s : State} (h : Inv s) (hf : s.fault = true) : settled s = archOf s := by
  simp [settled, h.fault_empty hf]

theorem archStep_of_fault {a : Arch} (h : a.fault = true) (req : ReqWord) : archStep a req = a :=
  foldl_archStep_of_fault h [req]

/-- The unit after the answer to its oldest request, as one that answers at acceptance: nothing of it changes, and the response
is the first of those owed. -/
theorem finish_refines {s : State} {f : InFlight} {fs : List InFlight} (hf : s.fault = false)
    (hfl : s.inFlight = f :: fs) :
    settled (finish (outcomeOf f.req) { s with inFlight := fs }) = settled s ∧
      pendingAnswers s = (finish (outcomeOf f.req) { s with inFlight := fs }).resp.toList ++
        pendingAnswers (finish (outcomeOf f.req) { s with inFlight := fs }) := by
  have harch : archOf (finish (outcomeOf f.req) { s with inFlight := fs }) = archStep (archOf s) f.req :=
    archOf_finish f.req hf
  simp only [settled, pendingAnswers, hfl, List.map_cons, List.foldl_cons, harch]
  rcases ho : outcomeOf f.req with c | r
  · have hhalt : (archStep (archOf s) f.req).fault = true := by simp [archStep, hf, ho]
    rw [foldl_archStep_of_fault hhalt, foldl_archStep_of_fault hhalt, answers_cons_error ho, answers_of_fault hhalt]
    exact ⟨rfl, rfl⟩
  · rw [answers_cons_ok hf ho]
    exact ⟨rfl, rfl⟩

/-- The due answer takes its response from those owed, and changes nothing of the unit that answers at acceptance. -/
theorem answerDue_refines {s t : State} (h : Inv s) (hr : s.resp = none) (ht : answerDue s = .next t) :
    settled t = settled s ∧ pendingAnswers s = t.resp.toList ++ pendingAnswers t := by
  rcases answerDue_next_cases ht with ⟨f, fs, hfl, rfl⟩ | ⟨-, rfl⟩
  · exact finish_refines (fault_of_inFlight_cons h hfl) hfl
  · simp [hr]

/-- A request presented to a halted unit is not accepted, and so it is to the unit that answers at acceptance. -/
theorem halted_refines {s : State} (h : Inv s) (hf : s.fault = true) (req : ReqWord) :
    archStep (settled s) req = settled s ∧ answers (settled s) [req] = [] := by
  have hs : (settled s).fault = true := by rw [settled_of_fault h hf]; exact hf
  exact ⟨archStep_of_fault hs req, answers_of_fault hs [req]⟩

/-- With `LATENCY = 0` nothing is in flight between the cycles. -/
theorem inFlight_of_latency_zero {p : Params} {s : State} (h : CycleInv p s) (hl : p.latency = 0) : s.inFlight = [] := by
  refine List.eq_nil_iff_forall_not_mem.2 fun f hf => ?_
  have := h.bounded f hf
  omega

/-- Settles O51: the tick changes nothing, the due answer takes the response owed first, and the acceptance is the transaction
step; with `LATENCY = 0` nothing was in flight, so the one response is the accepted request's. -/
theorem cycleRefinesTransaction : Obligations.CycleRefinesTransaction := by
  unfold Obligations.CycleRefinesTransaction
  intro p inp s h hw hr
  obtain ⟨t, ht⟩ := cycle_next (p := p) (inp := inp) hw h.arch.cause_legal
  refine ⟨t, ht, ?_⟩
  rcases cycle_cases ht with ⟨hr', -⟩ | ⟨-, -, -, s', hs', hrest⟩
  · simp [hr] at hr'
  · obtain ⟨ha, hd⟩ := answerDue_tick_keeps h hs'
    obtain ⟨hset, hpend⟩ := answerDue_refines (inv_tick h.arch) (tick_resp s) hs'
    rw [settled_tick] at hset
    rw [pendingAnswers_tick] at hpend
    rw [← hset, hpend]
    rcases hrest with ⟨hv, hf, hl, rfl⟩ | ⟨hv, hf, hl, ht⟩ | ⟨hv, rfl⟩
    · simp [hv, settled_enqueue, pendingAnswers_enqueue]
    · have he : (tick s).inFlight = [] := by simp [inFlight_of_latency_zero h hl]
      obtain rfl : tick s = s' := by simpa [answerDue_of_nil he] using hs'
      obtain ⟨hset', hpend'⟩ := answerDue_refines (inv_enqueue ha hf p (portReq inp)) rfl ht
      rw [settled_enqueue] at hset'
      rw [pendingAnswers_enqueue] at hpend'
      simp [hv, hset', ← hpend']
    · refine ⟨fun _ => ⟨rfl, rfl⟩, fun hv' => ?_⟩
      obtain ⟨hstep, hans⟩ := halted_refines ha (hv.resolve_left (by simp [hv'])) (portReq inp)
      simp [hstep, hans]

-- ## A request through the cycles

/-- A cycle in which the due answer leaves the unit unfaulted accepts the request presented, for `LATENCY > 0`. -/
theorem cycle_of_answerDue {p : Params} {inp : PortIn} {s s' : State} (hw : s.wasReset = true) (hc : s.cause ≠ 3)
    (hr : inp.rst = false) (hl : p.latency ≠ 0) (ha : answerDue (tick s) = .next s') (hf : s'.fault = false) :
    cycle p inp s = .next (if inp.reqValid then enqueue p (portReq inp) s' else s') := by
  have hn := (noMove_eq_none_iff s).2 ⟨hw, hc⟩
  rcases hv : inp.reqValid <;> simp [cycle, presentsInFirstReset, hr, hn, ha, hv, accepts, hf, hl]

theorem reqReady_of_answerDue {inp : PortIn} {s s' : State} (ha : answerDue (tick s) = .next s') :
    reqReady inp s = (!inp.rst && !s'.fault) := by
  simp [reqReady, ha, accepts]

/-- Where no request in flight is due in the next cycle, that cycle begins with the tick alone. -/
theorem answerDue_tick_of_later {s : State} (h : ∀ f ∈ s.inFlight, 1 < f.left) : answerDue (tick s) = .next (tick s) := by
  rcases hfl : s.inFlight with _ | ⟨f, fs⟩
  · exact answerDue_of_nil (by simp [hfl])
  · have := h f (by simp [hfl])
    exact answerDue_of_not_due (by rw [tick_inFlight, hfl, List.map_cons]) (by simp only; omega)

/-- Settles O48: the cycle is the tick and then the acceptance. -/
theorem acceptanceAtThePort : Obligations.AcceptanceAtThePort := by
  unfold Obligations.AcceptanceAtThePort
  intro p inp s hdue
  have ha := answerDue_tick_of_later hdue
  have hready : reqReady inp s = true ↔ s.fault = false ∧ inp.rst = false := by
    simp [reqReady_of_answerDue ha, and_comm]
  refine ⟨hready, fun hw hc hl hq hv => ?_⟩
  obtain ⟨hf, hr⟩ := hready.1 hq
  rw [cycle_of_answerDue hw hc hr hl.ne' ha hf, if_pos hv]
  rfl

-- ## From acceptance to the response

/-- Where taking requests in order ends without a fault, none began it and every one of them has a result. -/
theorem ok_of_foldl_archStep {a : Arch} {reqs : List ReqWord} (h : (reqs.foldl archStep a).fault = false) :
    a.fault = false ∧ ∀ q ∈ reqs, ∃ r, outcomeOf q = .ok r := by
  have hf : a.fault = false :=
    Bool.eq_false_iff.2 fun hf => by simp [foldl_archStep_of_fault hf, hf] at h
  refine ⟨hf, ?_⟩
  induction reqs generalizing a with
  | nil => simp
  | cons req reqs ih =>
    rcases ho : outcomeOf req with c | r
    · have hhalt : (archStep a req).fault = true := by simp [archStep, hf, ho]
      rw [List.foldl_cons, foldl_archStep_of_fault hhalt, hhalt] at h
      cases h
    · have hnext : (archStep a req).fault = false := by simp [archStep, hf, ho]
      exact List.forall_mem_cons.2 ⟨⟨r, ho⟩, ih h hnext⟩

/-- The request `req` is in flight, due in `n` cycles, and no older request faults. -/
structure Awaits (req : ReqWord) (n : Nat) (s : State) : Prop where
  wasReset : s.wasReset = true
  fault : s.fault = false
  queued : ∃ older younger, s.inFlight = older ++ { req := req, left := n } :: younger ∧
    ∀ f ∈ older, ∃ r, outcomeOf f.req = .ok r

/-- The response `r` was delivered by the last cycle, and is in `RESULT` (10_state.md R24, R26). -/
def Delivered (r : Res) (s : State) : Prop := s.resp = some r ∧ s.result = some r ∧ s.valid = true

theorem delivered_respond (r : Res) (s : State) : Delivered r (respond r s) := ⟨rfl, rfl, rfl⟩

theorem Awaits.tick {req : ReqWord} {n : Nat} {s : State} (h : Awaits req (n + 1) s) : Awaits req n (tick s) where
  wasReset := h.wasReset
  fault := h.fault
  queued := by
    obtain ⟨older, younger, hfl, hok⟩ := h.queued
    have hok' : ∀ f ∈ older.map fun f => { f with left := f.left - 1 }, ∃ r, outcomeOf f.req = .ok r :=
      List.forall_mem_map.2 hok
    exact ⟨_, younger.map fun f => { f with left := f.left - 1 }, by simp [hfl], hok'⟩

theorem Awaits.enqueue {req : ReqWord} {n : Nat} {s : State} (h : Awaits req n s) (p : Params) (new : ReqWord) :
    Awaits req n (enqueue p new s) where
  wasReset := h.wasReset
  fault := h.fault
  queued := by
    obtain ⟨older, younger, hfl, hok⟩ := h.queued
    exact ⟨older, younger ++ [{ req := new, left := p.latency }], by simp [hfl], hok⟩

/-- The due answer while `req` is awaited: its own response when its time has come, and until then at most that of an older
request, which does not fault. -/
theorem Awaits.answerDue {req : ReqWord} {n hi : Nat} {r : Res} {s : State} (h : Awaits req n s)
    (hd : DueWithin 0 hi s.inFlight) (ho : outcomeOf req = .ok r) :
    ∃ t, answerDue s = .next t ∧ t.fault = false ∧ ((n = 0 ∧ Delivered r t) ∨ (n ≠ 0 ∧ Awaits req n t)) := by
  obtain ⟨older, younger, hfl, hok⟩ := h.queued
  cases older with
  | nil =>
    by_cases h0 : n = 0
    · refine ⟨_, answerDue_of_due hfl h0, ?_⟩
      rw [ho, finish_ok]
      exact ⟨h.fault, .inl ⟨h0, delivered_respond r _⟩⟩
    · exact ⟨s, answerDue_of_not_due hfl h0, h.fault, .inr ⟨h0, h⟩⟩
  | cons g older =>
    obtain ⟨⟨r', hr'⟩, holder⟩ := List.forall_mem_cons.1 hok
    rw [List.cons_append] at hfl
    rw [hfl] at hd
    have hlater : g.left + 1 ≤ n := (hd.tail.2 { req := req, left := n } (by simp)).1
    have hn : n ≠ 0 := by omega
    by_cases h0 : g.left = 0
    · refine ⟨_, answerDue_of_due hfl h0, ?_⟩
      rw [hr', finish_ok]
      exact ⟨h.fault, .inr ⟨hn, h.wasReset, h.fault, older, younger, rfl, holder⟩⟩
    · exact ⟨s, answerDue_of_not_due hfl h0, h.fault, .inr ⟨hn, h⟩⟩

/-- A cycle at the port, for `LATENCY > 0`, in which the due answer leaves the unit unfaulted: whatever is presented is accepted,
so nothing waits after it. -/
theorem portCycle_of_answerDue {p : Params} {inp : PortIn} {x : Port} {s' : State} (hw : x.unit.wasReset = true)
    (hc : x.unit.cause ≠ 3) (hr : inp.rst = false) (hl : p.latency ≠ 0) (hx : changesRequest inp x.waiting = false)
    (ha : answerDue (tick x.unit) = .next s') (hf : s'.fault = false) :
    portCycle p inp x =
      .next { unit := if inp.reqValid then enqueue p (portReq inp) s' else s', waiting := none } := by
  rw [portCycle_of_cycle hx (cycle_of_answerDue hw hc hr hl ha hf)]
  simp [waitingAfter, reqReady_of_answerDue ha, hr, hf]

/-- One cycle while `req` is awaited. -/
theorem Awaits.portCycle {p : Params} {inp : PortIn} {req : ReqWord} {n : Nat} {r : Res} {s : State}
    (h : Awaits req (n + 1) s) (hi : CycleInv p s) (ho : outcomeOf req = .ok r) (hr : inp.rst = false) :
    ∃ t, portCycle p inp { unit := s, waiting := none } = .next { unit := t, waiting := none } ∧
      ((n = 0 ∧ Delivered r t) ∨ (n ≠ 0 ∧ Awaits req n t)) := by
  have hl : p.latency ≠ 0 := fun hl => by
    obtain ⟨_, _, hfl, -⟩ := h.queued
    simp [inFlight_of_latency_zero hi hl] at hfl
  obtain ⟨s', ha, hf, hend⟩ := h.tick.answerDue ((cycleInv_iff p s).1 hi).2.tick ho
  refine ⟨_, portCycle_of_answerDue h.wasReset hi.arch.cause_legal hr hl rfl ha hf, ?_⟩
  split
  · exact hend.imp id fun ⟨h0, hs'⟩ => ⟨h0, hs'.enqueue p _⟩
  · exact hend

/-- The cycles until the response of `req`, whatever requests are presented in them. -/
theorem Awaits.cycles {p : Params} {rest : List PortIn} {req : ReqWord} {r : Res} {s : State}
    (h : Awaits req rest.length s) (hi : CycleInv p s) (ho : outcomeOf req = .ok r) (hr : ∀ i ∈ rest, i.rst = false) :
    ∃ y, cycles p rest { unit := s, waiting := none } = .next y ∧ Delivered r y.unit := by
  induction rest generalizing s with
  | nil =>
    obtain ⟨_, _, hfl, -⟩ := h.queued
    exact absurd (hi.bounded { req := req, left := 0 } (by simp [hfl])).1 (Nat.lt_irrefl 0)
  | cons inp rest ih =>
    obtain ⟨hr0, hrs⟩ := List.forall_mem_cons.1 hr
    obtain ⟨t, ht, hend⟩ := h.portCycle hi ho hr0
    rw [Machine.cycles, ht, andThen_next]
    rcases hend with ⟨h0, hdel⟩ | ⟨-, haw⟩
    · rw [List.length_eq_zero_iff.1 h0]
      exact ⟨_, rfl, hdel⟩
    · exact ih haw (cycleKeepsInvariant p inp s t hi (portCycle_cases ht).2.1) hrs

/-- The due answer where every request in flight has a result. -/
theorem answerDue_of_ok {s : State} (hf : s.fault = false) (hok : ∀ f ∈ s.inFlight, ∃ r, outcomeOf f.req = .ok r) :
    ∃ t, answerDue s = .next t ∧ t.fault = false ∧ t.wasReset = s.wasReset ∧
      ∀ f ∈ t.inFlight, ∃ r, outcomeOf f.req = .ok r := by
  rcases answerDue_cases s with ⟨f, fs, hfl, -, ha⟩ | ⟨-, ha⟩
  · rw [hfl] at hok
    obtain ⟨⟨r, hr⟩, hoks⟩ := List.forall_mem_cons.1 hok
    rw [hr, finish_ok] at ha
    exact ⟨_, ha, hf, rfl, hoks⟩
  · exact ⟨s, ha, hf, rfl, hok⟩

/-- With `LATENCY = 0` a request that is presented to an unfaulted unit is answered in the same cycle. -/
theorem cycle_of_latency_zero {p : Params} {inp : PortIn} {s : State} (hi : CycleInv p s) (hw : s.wasReset = true)
    (hf : s.fault = false) (hl : p.latency = 0) (hr : inp.rst = false) (hv : inp.reqValid = true) :
    cycle p inp s = .next (finish (outcomeOf (portReq inp)) { tick s with inFlight := [] }) := by
  have hn := (noMove_eq_none_iff s).2 ⟨hw, hi.arch.cause_legal⟩
  have he : (tick s).inFlight = [] := by simp [inFlight_of_latency_zero hi hl]
  have hdue := answerDue_of_due (s := enqueue p (portReq inp) (tick s)) (by rw [enqueue_inFlight, he]; rfl) hl
  have haccept : cycle p inp s = answerDue (enqueue p (portReq inp) (tick s)) := by
    simp [cycle, presentsInFirstReset, hr, hn, answerDue_of_nil he, hv, accepts, hf, hl]
  exact haccept.trans hdue

/-- Settles O52: the request joins the unit's flight, or is answered at once, and then is awaited. -/
theorem responseComesAfterLatency : Obligations.ResponseComesAfterLatency := by
  unfold Obligations.ResponseComesAfterLatency
  intro p inp rest x r hi hw hset hdrive hr hv ho hlen hrst
  obtain ⟨hf, hok⟩ := ok_of_foldl_archStep hset
  have hx : changesRequest inp x.waiting = false := (changesRequest_eq_false_iff _ _).2 (.inr (hdrive hv).2)
  by_cases hl : p.latency = 0
  · rw [hl] at hlen
    rw [List.length_eq_zero_iff.1 hlen, cycles, portCycle_of_cycle hx (cycle_of_latency_zero hi hw hf hl hr hv), ho]
    exact ⟨_, rfl, delivered_respond r _⟩
  · obtain ⟨s', ha, hf', hw', hok'⟩ := answerDue_of_ok (s := tick x.unit) hf (by simpa using hok)
    have haccept := portCycle_of_answerDue hw hi.arch.cause_legal hr hl hx ha hf'
    rw [if_pos hv] at haccept
    have haw : Awaits (portReq inp) p.latency (enqueue p (portReq inp) s') :=
      ⟨hw'.trans hw, hf', s'.inFlight, [], rfl, hok'⟩
    rw [cycles, haccept, andThen_next]
    exact (hlen ▸ haw).cycles (cycleKeepsInvariant p inp _ _ hi (portCycle_cases haccept).2.1) ho hrst

end Sys2Proof.Proofs
end

section
/-! The memory obligations (20_memory.md): a request without a fault is idempotent, and instances share no state. -/

namespace Sys2Proof.Proofs

open Sys2Proof.Machine

-- ## Idempotency

/-- The outcome an operation ends in is the same in every state (10_state.md R34, R36). -/
theorem exists_exec_eq_finish (i : Instr) : ∃ o, ∀ s, exec i s = .next (finish o s) := by
  cases i with
  | sin angle acc => exact ⟨sinOp angle, exec_sin angle acc⟩
  | cos angle acc => exact ⟨cosOp angle, exec_cos angle acc⟩
  | clamp angle acc => exact ⟨clampOp acc, exec_clamp angle acc⟩

theorem respond_respond (r : Res) (s : State) : respond r (respond r s) = respond r s := rfl

theorem finish_finish_of_not_fault {o : Except FaultCause Res} {s : State} (h : (finish o s).fault = false) :
    finish o (finish o s) = finish o s := by
  cases o with
  | ok r => exact respond_respond r s
  | error c => simp at h

/-- Settles O28: without a fault the second end of the request writes the result that the first wrote. -/
theorem requestIsIdempotent : Obligations.RequestIsIdempotent := by
  unfold Obligations.RequestIsIdempotent
  intro i s t h hf
  obtain ⟨o, ho⟩ := exists_exec_eq_finish i
  obtain rfl : finish o s = t := Host.Outcome.next.inj ((ho s).symm.trans h)
  rw [ho, finish_finish_of_not_fault hf]

-- ## Several instances

/-- Everything a step of the unit at a position can be that answers a next state: nothing where there is no unit, or the
unit's own step, written back at its position. -/
theorem stepUnit_cases {units units' : List State} {k : Nat} (h : stepUnit units k = .next units') :
    (units[k]? = none ∧ units' = units) ∨
    (∃ s t, units[k]? = some s ∧ step s = .next t ∧ units' = units.set k t) := by
  unfold stepUnit at h
  split at h
  · rename_i hk
    cases h
    exact .inl ⟨hk, rfl⟩
  · rename_i s hk
    rcases hs : step s with t | r | r <;> rw [hs] at h <;> cases h
    exact .inr ⟨s, t, hk, hs, rfl⟩

/-- Settles O57: the platform's list changes at the position of the stepped unit alone. -/
theorem instancesShareNoState : Obligations.InstancesShareNoState := by
  unfold Obligations.InstancesShareNoState
  intro units units' k h
  rcases stepUnit_cases h with ⟨hk, rfl⟩ | ⟨s, t, hk, hs, rfl⟩
  · exact ⟨rfl, fun _ _ => rfl, by simp [hk]⟩
  · refine ⟨List.length_set, fun j hj => List.getElem?_set_ne hj.symm, fun s' hs' => ?_⟩
    obtain rfl : s = s' := Option.some.inj (hk.symm.trans hs')
    obtain ⟨hlt, -⟩ := List.getElem?_eq_some_iff.1 hk
    exact ⟨t, hs, List.getElem?_set_self hlt⟩

end Sys2Proof.Proofs
end

section
/-! The encoding obligations (30_encoding.md): the fields of a request word, the decoder and the encoder, the assembly of written
requests, and the reserved encoding.

A word is its three fields side by side, so packing and the field reads invert each other, and `op` alone selects the decoder's
answer. The decoder and the encoder invert each other by these two facts; assembly is the encoder at an operand in range. -/

namespace Sys2Proof.Proofs

open Sys2Proof.Machine

-- ## The fields of a request word

@[simp] theorem opField_packReq (op : OpSel) (angle : Angle) (acc : Acc) : opField (packReq op angle acc) = op :=
  BitVec.extractLsb'_append_eq_right

@[simp] theorem angleField_packReq (op : OpSel) (angle : Angle) (acc : Acc) :
    angleField (packReq op angle acc) = angle := by
  have hskip : angleField (packReq op angle acc) = (acc ++ angle).extractLsb' 0 20 :=
    BitVec.extractLsb'_append_eq_of_le (le_refl 2)
  rw [hskip, BitVec.extractLsb'_append_eq_right]

@[simp] theorem accField_packReq (op : OpSel) (angle : Angle) (acc : Acc) : accField (packReq op angle acc) = acc := by
  have hskip : accField (packReq op angle acc) = (acc ++ angle).extractLsb' 20 32 :=
    BitVec.extractLsb'_append_eq_of_le (by decide)
  rw [hskip, BitVec.extractLsb'_append_eq_left]

/-- The fields leave out no bit of the word (30_encoding.md R49). -/
theorem packReq_fields (req : ReqWord) : packReq (opField req) (angleField req) (accField req) = req := by
  unfold packReq opField angleField accField
  rw [BitVec.extractLsb'_append_extractLsb'_eq_extractLsb' (by decide),
    BitVec.extractLsb'_append_extractLsb'_eq_extractLsb' (by decide)]
  exact BitVec.extractLsb'_eq_self

theorem opField_eq_iff (req : ReqWord) (op : OpSel) : opField req = op ↔ req.toNat % 4 = op.toNat := by
  rw [← BitVec.toNat_inj, opField, BitVec.extractLsb'_toNat, Nat.shiftRight_zero]

theorem angleField_eq (req : ReqWord) : angleField req = BitVec.ofNat 20 (req.toNat / 2 ^ 2) := by
  rw [← Nat.shiftRight_eq_div_pow]
  rfl

theorem accField_eq (req : ReqWord) : accField req = BitVec.ofNat 32 (req.toNat / 2 ^ 22) := by
  rw [← Nat.shiftRight_eq_div_pow]
  rfl

-- ## The decoder and the encoder

theorem decode_of_op_zero {req : ReqWord} (h : opField req = 0) :
    decode req = .instr (.sin (angleField req) (accField req)) := by
  simp [decode, h]

theorem decode_of_op_one {req : ReqWord} (h : opField req = 1) :
    decode req = .instr (.cos (angleField req) (accField req)) := by
  simp [decode, h]

theorem decode_of_op_two {req : ReqWord} (h : opField req = 2) :
    decode req = .instr (.clamp (angleField req) (accField req)) := by
  simp [decode, h]

theorem decode_of_op_three {req : ReqWord} (h : opField req = 3) : decode req = .rejected .reservedOp := by
  simp [decode, h]

/-- Settles O2: the fields of a packed word are the fields that were packed. -/
theorem decodeInvertsEncode : Obligations.DecodeInvertsEncode := by
  unfold Obligations.DecodeInvertsEncode
  intro i
  cases i with
  | sin angle acc => simp [encode, decode_of_op_zero]
  | cos angle acc => simp [encode, decode_of_op_one]
  | clamp angle acc => simp [encode, decode_of_op_two]

/-- The encoder packs the fields that the decoder read, under the operation select that the decoder read it by. -/
theorem encode_eq_packReq_of_decode {req : ReqWord} {i : Instr} (h : decode req = .instr i) :
    encode i = packReq (opField req) (angleField req) (accField req) := by
  unfold decode at h
  split_ifs at h with h0 h1 h2 <;> cases h
  · rw [h0, encode]
  · rw [h1, encode]
  · rw [h2, encode]

/-- Settles O3: the fields that the decoder reads are the whole word. -/
theorem encodeInvertsDecode : Obligations.EncodeInvertsDecode := by
  unfold Obligations.EncodeInvertsDecode
  intro req i h
  rw [encode_eq_packReq_of_decode h, packReq_fields]

/-- Settles O4: the number of a word modulo 4 is its operation select. -/
theorem decoderIsTotal : Obligations.DecoderIsTotal := by
  unfold Obligations.DecoderIsTotal
  intro req
  rw [← angleField_eq, ← accField_eq]
  exact ⟨fun h => decode_of_op_zero ((opField_eq_iff req 0).2 h), fun h => decode_of_op_one ((opField_eq_iff req 1).2 h),
    fun h => decode_of_op_two ((opField_eq_iff req 2).2 h), fun h => decode_of_op_three ((opField_eq_iff req 3).2 h)⟩

/-- Settles O1: by running the decoder on the eight words. -/
theorem sampleWordsDecode : Obligations.SampleWordsDecode := by
  unfold Obligations.SampleWordsDecode
  decide

-- ## Written requests

/-- A written request in range assembles to the word of its operation, with the ignored field 0 (30_encoding.md R59). -/
theorem assemble_sin {n : Nat} (h : n < 2 ^ 20) : assemble (.sin n) = some (encode (.sin (BitVec.ofNat 20 n) 0)) :=
  if_pos (decide_eq_true h)

theorem assemble_cos {n : Nat} (h : n < 2 ^ 20) : assemble (.cos n) = some (encode (.cos (BitVec.ofNat 20 n) 0)) :=
  if_pos (decide_eq_true h)

theorem assemble_clamp {v : Int} (h : -2 ^ 31 ≤ v ∧ v < 2 ^ 31) :
    assemble (.clamp v) = some (encode (.clamp 0 (BitVec.ofInt 32 v))) :=
  if_pos (decide_eq_true h)

theorem assemble_word {n : Nat} (h : n < 2 ^ 54) : assemble (.word n) = some (BitVec.ofNat 54 n) :=
  if_pos (decide_eq_true h)

/-- An operand out of range is refused (30_encoding.md R51). -/
theorem assemble_of_not_wellFormed {r : Written} (h : r.wellFormed = false) : assemble r = none := by
  simp [assemble, h]

theorem presentWritten_of_none {r : Written} (h : assemble r = none) (s : State) :
    presentWritten r s = .refused .operandOutOfRange := by
  simp [presentWritten, h]

theorem presentWritten_of_some {r : Written} {req : ReqWord} (h : assemble r = some req) (s : State) :
    presentWritten r s = .next { s with host := s.host ++ [.present req] } := by
  simp [presentWritten, h]

/-- Settles O5: a number in range is the one its port-wide pattern stands for, and the pattern is decoded back. -/
theorem assemblyRefusesOutOfRangeOperands : Obligations.AssemblyRefusesOutOfRangeOperands := by
  unfold Obligations.AssemblyRefusesOutOfRangeOperands
  refine ⟨fun n => ⟨fun h => ?_, fun h => ?_⟩, fun n => ⟨fun h => ?_, fun h => ?_⟩, fun v => ⟨fun h => ?_, fun h => ?_⟩,
    fun n => ⟨fun h => ?_, fun h => ?_⟩,
    fun r s => ⟨fun h => presentWritten_of_none h s, fun req h => presentWritten_of_some h s⟩⟩
  · exact ⟨_, _, assemble_sin h, decodeInvertsEncode _, Nat.mod_eq_of_lt h⟩
  · exact assemble_of_not_wellFormed (decide_eq_false (not_lt.2 h))
  · exact ⟨_, _, assemble_cos h, decodeInvertsEncode _, Nat.mod_eq_of_lt h⟩
  · exact assemble_of_not_wellFormed (decide_eq_false (not_lt.2 h))
  · exact ⟨_, _, assemble_clamp h, decodeInvertsEncode _, BitVec.toInt_ofInt_eq_self (by decide) h.1 h.2⟩
  · exact assemble_of_not_wellFormed (decide_eq_false h)
  · exact ⟨_, assemble_word h, Nat.mod_eq_of_lt h⟩
  · exact assemble_of_not_wellFormed (decide_eq_false (not_lt.2 h))

-- ## The reserved encoding and the ignored fields

theorem outcomeOf_of_op_three {req : ReqWord} (h : opField req = 3) : outcomeOf req = .error .illegalOp := by
  simp [outcomeOf, decode_of_op_three h]

/-- Settles O31: a ready unit runs the request presented, and the outcome of the reserved encoding is ILLEGAL_OP. -/
theorem reservedOpEntersFault : Obligations.ReservedOpEntersFault := by
  unfold Obligations.ReservedOpEntersFault
  intro s req rest hop hw hf hc he hh
  have hready : Ready s := ⟨hw, hf, hc⟩
  rw [hready.step_of_present hh he, perform_eq, outcomeOf_of_op_three ((opField_eq_iff req 3).2 hop)]
  rfl

/-- Settles O26: each operation ends in an outcome that is computed from the one field it reads. -/
theorem ignoredFieldsHaveNoEffect : Obligations.IgnoredFieldsHaveNoEffect := by
  unfold Obligations.IgnoredFieldsHaveNoEffect
  intro s angle angle' acc acc'
  exact ⟨(exec_sin angle acc s).trans (exec_sin angle acc' s).symm,
    (exec_cos angle acc s).trans (exec_cos angle acc' s).symm,
    (exec_clamp angle acc s).trans (exec_clamp angle' acc s).symm⟩

end Sys2Proof.Proofs
end

section
/-! The clamp obligations (40_overflow_clamp.md): the two-bit window test at every width, the saturation that it is under its
precondition, its fault, and the CLAMP operation.

What the clamp answers is decided by `v / 2^(w-1)`, the part of the value above its low `w - 1` bits (`clampTo_eq_of_ediv`):
-1 and 0 where the value fits in `w` bits, -2 and 1 where it fits in `w + 1` bits only, 2 and -3 just outside the precondition. -/

namespace Sys2Proof.Proofs

open Sys2Proof.Machine

-- ## The window test at every width

/-- The postcondition of the clamp says that the value fits in `n + 1` bits (40_overflow_clamp.md R61). -/
theorem shr_eq_zero_or_neg_one_iff (v : Int) (n : Nat) : shr v n = 0 ∨ shr v n = -1 ↔ -2 ^ n ≤ v ∧ v < 2 ^ n := by
  have hpos : (0 : Int) < 2 ^ n := by positivity
  rw [shr_eq, Int.ediv_eq_iff_of_pos hpos, Int.ediv_eq_iff_of_pos hpos]
  omega

theorem clampTo_of_bits_one_zero {w : Nat} {v : Int} (hhigh : v / 2 ^ w % 2 = 1) (hlow : v / 2 ^ (w - 1) % 2 = 0) :
    clampTo w v = .ok (-2 ^ (w - 1)) := by
  rw [← bitOf_eq_true_iff] at hhigh
  rw [← bitOf_eq_false_iff] at hlow
  have hs : saturate w v = -2 ^ (w - 1) := by simp [saturate, hhigh, hlow, minOf]
  rw [clampTo, hs]
  exact if_pos ((shr_eq_zero_or_neg_one_iff _ _).2 ⟨le_rfl, neg_lt_self (by positivity)⟩)

theorem clampTo_of_bits_zero_one {w : Nat} {v : Int} (hhigh : v / 2 ^ w % 2 = 0) (hlow : v / 2 ^ (w - 1) % 2 = 1) :
    clampTo w v = .ok (2 ^ (w - 1) - 1) := by
  rw [← bitOf_eq_false_iff] at hhigh
  rw [← bitOf_eq_true_iff] at hlow
  have hs : saturate w v = 2 ^ (w - 1) - 1 := by simp [saturate, hhigh, hlow, maxOf]
  have hpos : (0 : Int) < 2 ^ (w - 1) := by positivity
  rw [clampTo, hs]
  exact if_pos ((shr_eq_zero_or_neg_one_iff _ _).2 ⟨by omega, by omega⟩)

theorem bitOf_eq_bitOf_iff (v : Int) (j k : Nat) : bitOf v j = bitOf v k ↔ v / 2 ^ j % 2 = v / 2 ^ k % 2 := by
  rw [Bool.eq_iff_iff, bitOf_eq_true_iff, bitOf_eq_true_iff]
  omega

theorem clampTo_of_bits_eq {w : Nat} {v : Int} (h : v / 2 ^ w % 2 = v / 2 ^ (w - 1) % 2) :
    clampTo w v = if -2 ^ (w - 1) ≤ v ∧ v < 2 ^ (w - 1) then .ok v else .error .clampPost := by
  have hs : saturate w v = v := if_neg (not_not.2 ((bitOf_eq_bitOf_iff v _ _).2 h))
  simp only [clampTo, hs, shr_eq_zero_or_neg_one_iff]

/-- Settles O6: where the two bits differ the saturated value fits, and where they agree the value is tested itself. -/
theorem clampIsTwoBitWindowTest : Obligations.ClampIsTwoBitWindowTest := by
  unfold Obligations.ClampIsTwoBitWindowTest
  intro w v _
  split_ifs with hne hhigh hfit
  · exact clampTo_of_bits_one_zero hhigh (by omega)
  · exact clampTo_of_bits_zero_one (by omega) (by omega)
  · exact (clampTo_of_bits_eq (not_not.1 hne)).trans (if_pos hfit)
  · exact (clampTo_of_bits_eq (not_not.1 hne)).trans (if_neg hfit)

-- ## The answer by `v / 2^(w-1)`

theorem two_pow_eq_two_mul {w : Nat} (hw : 2 ≤ w) : (2 : Int) ^ w = 2 ^ (w - 1) * 2 :=
  (pow_sub_one_mul (by omega) 2).symm

/-- The clamp's answer in terms of the one quotient `q`, whose low two bits are the bits `w` and `w - 1` of the value. -/
theorem clampTo_eq_of_ediv {w : Nat} {v q : Int} (hw : 2 ≤ w) (hq : v / 2 ^ (w - 1) = q) :
    clampTo w v =
      if q / 2 % 2 ≠ q % 2 then .ok (if q / 2 % 2 = 1 then -2 ^ (w - 1) else 2 ^ (w - 1) - 1)
      else if q = 0 ∨ q = -1 then .ok v
      else .error .clampPost := by
  have hhigh : v / 2 ^ w = q / 2 := by
    rw [two_pow_eq_two_mul hw, ← Int.ediv_ediv_of_nonneg (by positivity), hq]
  simp only [clampIsTwoBitWindowTest w v hw, ← shr_eq_zero_or_neg_one_iff, shr_eq, hhigh, hq]

theorem clampTo_of_fits {w : Nat} {v : Int} (hw : 2 ≤ w) (h : -2 ^ (w - 1) ≤ v ∧ v < 2 ^ (w - 1)) :
    clampTo w v = .ok v := by
  rcases (shr_eq_zero_or_neg_one_iff v (w - 1)).2 h with hq | hq
  · exact clampTo_eq_of_ediv hw hq
  · exact clampTo_eq_of_ediv hw hq

/-- Settles O7: under the precondition `v / 2^(w-1)` is one of -2, -1, 0 and 1. -/
theorem clampUnderPrecondition : Obligations.ClampUnderPrecondition := by
  unfold Obligations.ClampUnderPrecondition
  intro w v hw hlo hhi
  have hpos : (0 : Int) < 2 ^ (w - 1) := by positivity
  rw [two_pow_eq_two_mul hw] at hlo hhi
  refine ⟨clampTo_of_fits hw, fun h => ?_, fun h => ?_⟩
  · have hq : v / 2 ^ (w - 1) = 1 := (Int.ediv_eq_iff_of_pos hpos).2 (by omega)
    exact clampTo_eq_of_ediv hw hq
  · have hq : v / 2 ^ (w - 1) = -2 := (Int.ediv_eq_iff_of_pos hpos).2 (by omega)
    exact clampTo_eq_of_ediv hw hq

/-- Settles O8: `v / 2^(w-1)` is 2 at the first value above the precondition and -3 at the first below it. -/
theorem clampDiffersFromRangeClamp : Obligations.ClampDiffersFromRangeClamp := by
  unfold Obligations.ClampDiffersFromRangeClamp
  intro w hw
  have hpos : (0 : Int) < 2 ^ (w - 1) := by positivity
  rw [two_pow_eq_two_mul hw]
  have habove : (2 ^ (w - 1) * 2 : Int) / 2 ^ (w - 1) = 2 := (Int.ediv_eq_iff_of_pos hpos).2 (by omega)
  have hbelow : (-(2 ^ (w - 1) * 2) - 1 : Int) / 2 ^ (w - 1) = -3 := (Int.ediv_eq_iff_of_pos hpos).2 (by omega)
  exact ⟨clampTo_eq_of_ediv hw habove, clampTo_eq_of_ediv hw hbelow⟩

-- ## The fault

theorem clampTo_eq_error_iff {w : Nat} (v : Int) (hw : 2 ≤ w) :
    clampTo w v = .error .clampPost ↔
      v / 2 ^ w % 2 = v / 2 ^ (w - 1) % 2 ∧ ¬ (-2 ^ (w - 1) ≤ v ∧ v < 2 ^ (w - 1)) := by
  rw [clampIsTwoBitWindowTest w v hw]
  split
  · next hne => exact iff_of_false nofun fun h => hne h.1
  · next heq =>
    split
    · next hfit => exact iff_of_false nofun fun h => h.2 hfit
    · next hfit => exact iff_of_true rfl ⟨not_not.1 heq, hfit⟩

/-- Settles O9: the values between the two faults nearest zero differ in bits 18 and 17 or fit, and SIN and COS always have a
result. -/
theorem clampFaultCondition : Obligations.ClampFaultCondition := by
  unfold Obligations.ClampFaultCondition
  refine ⟨fun w v hw => clampTo_eq_error_iff v hw, by decide, by decide, by decide, fun v hlo hhi h => ?_, fun angle => ?_⟩
  · obtain ⟨heq, hout⟩ := (clampTo_eq_error_iff v (by decide)).1 h
    omega
  · obtain ⟨r, hr⟩ := sinOp_ok angle
    obtain ⟨r', hr'⟩ := cosOp_ok angle
    simp [hr, hr']

-- ## The laws of CLAMP18

/-- Under the precondition `CLAMP18` is the saturation onto the 18-bit range (40_overflow_clamp.md R63). -/
theorem clampTo18_eq_max_min {v : Int} (hlo : -262144 ≤ v) (hhi : v ≤ 262143) :
    clampTo 18 v = .ok (max (-131072) (min v 131071)) := by
  obtain ⟨hin, habove, hbelow⟩ := clampUnderPrecondition 18 v (by decide) hlo (by omega)
  rcases lt_or_ge v (-131072) with h | h
  · rw [max_eq_left (by omega)]
    exact hbelow h
  · rcases lt_or_ge v 131072 with h' | h'
    · rw [min_eq_left (by omega), max_eq_right h]
      exact hin ⟨h, h'⟩
    · rw [min_eq_right (by omega)]
      exact habove h'

/-- Settles O10: a value in range is kept, and the other laws are those of the saturation onto [-131072, 131071]. -/
theorem clampLaws : Obligations.ClampLaws := by
  unfold Obligations.ClampLaws
  refine ⟨fun v hlo hhi => ?_, fun v v' c c' hlo hle hhi h h' => ?_, fun c => ⟨?_, fun ⟨hlo, hhi⟩ => ?_⟩,
    fun v hlo hhi => ⟨_, clampTo18_eq_max_min hlo hhi⟩, by decide, by decide⟩
  · exact clampTo_of_fits (by decide) ⟨hlo, by omega⟩
  · rw [clampTo18_eq_max_min (by omega) (by omega), Except.ok.injEq] at h h'
    omega
  · rintro ⟨v, hlo, hhi, h⟩
    rw [clampTo18_eq_max_min hlo hhi, Except.ok.injEq] at h
    omega
  · exact ⟨c, by omega, by omega, clampTo_of_fits (by decide) ⟨hlo, by omega⟩⟩

-- ## The CLAMP operation

/-- A bit of the operand is that bit of the integer it is read as: sign extension moves none (30_encoding.md R51). -/
theorem bitOf_readAcc (acc : Acc) {k : Nat} (hk : k < 32) : bitOf (readAcc acc) k = acc.getLsbD k := by
  obtain ⟨m, hm⟩ : (2 : Int) ^ k * 2 ∣ 2 ^ 32 := pow_dvd_pow 2 (Nat.succ_le_of_lt hk)
  obtain ⟨c, hc⟩ : ∃ c : Int, readAcc acc = acc.toNat + 2 ^ k * (2 * (m * c)) := by
    rw [readAcc, BitVec.toInt_eq_toNat_cond]
    split
    · exact ⟨0, by omega⟩
    · exact ⟨-1, by push_cast; linear_combination -hm⟩
  have hdiv : readAcc acc / 2 ^ k = acc.toNat / 2 ^ k + 2 * (m * c) := by
    rw [hc, Int.add_mul_ediv_left _ _ (by positivity)]
  have hcast : ((acc.toNat / 2 ^ k : Nat) : Int) = acc.toNat / 2 ^ k := by push_cast; rfl
  rw [Bool.eq_iff_iff, bitOf_eq_true_iff, BitVec.getLsbD, Nat.testBit_eq_decide_div_mod_eq, decide_eq_true_iff, hdiv]
  omega

/-- The 18-bit pattern of the operand's value is its low 18 bits. -/
theorem to18_readAcc (acc : Acc) : to18 (readAcc acc) = acc.setWidth 18 :=
  BitVec.signExtend_eq_setWidth_of_le acc (by decide)

theorem exec_clamp_of_ok {acc : Acc} {c : Int} (h : clampTo 18 (readAcc acc) = .ok c) (angle : Angle) (s : State) :
    exec (.clamp angle acc) s = .next (respond (to18 c) s) := by
  rw [exec_clamp, clampOp, clampResult_of_ok h, finish_ok]

theorem exec_clamp_of_error {acc : Acc} {e : FaultCause} (h : clampTo 18 (readAcc acc) = .error e) (angle : Angle)
    (s : State) : exec (.clamp angle acc) s = .next (enterFault e s) := by
  rw [exec_clamp, clampOp, clampResult_of_error h, finish_error]

/-- Settles O12: the clamp's answer on the operand's value, with bits 18 and 17 read from the operand. -/
theorem clampCompletesOrFaults : Obligations.ClampCompletesOrFaults := by
  unfold Obligations.ClampCompletesOrFaults
  intro angle acc s
  rw [← bitOf_readAcc acc (k := 18) (by decide), ← bitOf_readAcc acc (k := 17) (by decide)]
  refine ⟨fun h18 h17 => ?_, fun h18 h17 => ?_, fun hlo hhi => ?_, fun heq hout => ?_⟩
  · rw [bitOf_eq_true_iff] at h18
    rw [bitOf_eq_false_iff] at h17
    exact exec_clamp_of_ok (clampTo_of_bits_one_zero h18 h17) angle s
  · rw [bitOf_eq_false_iff] at h18
    rw [bitOf_eq_true_iff] at h17
    exact exec_clamp_of_ok (clampTo_of_bits_zero_one h18 h17) angle s
  · rw [← to18_readAcc]
    exact exec_clamp_of_ok (clampTo_of_fits (by decide) ⟨hlo, hhi⟩) angle s
  · rw [bitOf_eq_bitOf_iff] at heq
    exact exec_clamp_of_error ((clampTo_eq_error_iff _ (by decide)).2 ⟨heq, hout⟩) angle s

/-- Settles O11: by evaluating each row. -/
theorem clampCornerCases : Obligations.ClampCornerCases := by
  unfold Obligations.ClampCornerCases
  decide

end Sys2Proof.Proofs
end

section
/-! The sine obligations (41_sine.md): the value of the pseudocode, the symmetries, and the exact range with its extremes and
zeros.

The sine reads an angle through `high0`, its sign, and through `sinPeaked`, which depends on the folded argument alone but for
the two peaks. So each symmetry of R82 is a relation of two angles modulo half a turn (`sinPeaked_of_half_turn`,
`sinPeaked_of_mirror`), with the two signs compared. -/

namespace Sys2Proof.Proofs

open Sys2Proof.Machine

-- ## The result from the value handed to the clamp

theorem toInt_to18 {v : Int} (hlo : -131072 ≤ v) (hhi : v < 131072) : (to18 v).toInt = v :=
  BitVec.toInt_ofInt_eq_self (by decide) hlo hhi

/-- The values SIN and COS hand to the clamp lie within its precondition, so it saturates them by range (R79, R81). -/
theorem clampResult_eq_max_min {v : Int} (h : -131072 ≤ v ∧ v ≤ 131072) :
    clampResult v = .ok (to18 (max (-131072) (min v 131071))) :=
  clampResult_of_ok (clampTo18_eq_max_min (by omega) (by omega))

theorem clampResult_of_fits {v : Int} (hlo : -131072 ≤ v) (hhi : v < 131072) : clampResult v = .ok (to18 v) :=
  clampResult_of_ok (clampTo_of_fits (by decide) ⟨hlo, hhi⟩)

/-- The results of two opposite values are opposite, but for the extremes (90_conflicts.md C3). -/
theorem clampResult_neg (v : Int) :
    (-131072 < v → v < 131072 →
      ∃ r r', clampResult v = .ok r ∧ clampResult (-v) = .ok r' ∧ r.toInt = v ∧ r'.toInt = -r.toInt) ∧
    (v = 131072 → clampResult v = .ok 0x1FFFF ∧ clampResult (-v) = .ok 0x20000) := by
  refine ⟨fun hlo hhi => ?_, ?_⟩
  · have hv := toInt_to18 hlo.le hhi
    have hneg : (to18 (-v)).toInt = -v := toInt_to18 (by omega) (by omega)
    exact ⟨_, _, clampResult_of_fits hlo.le hhi, clampResult_of_fits (by omega) (by omega), hv, by rw [hneg, hv]⟩
  · rintro rfl
    decide

-- ## The value of the pseudocode

theorem powMul_natCast (x y : Nat) : powMul x y = ((x * y / 2 ^ 18 : Nat) : Int) := by
  simp [powMul, shr_eq, coeffs]

theorem shr_mul_natCast (k x n : Nat) : shr (k * x) n = ((k * x / 2 ^ n : Nat) : Int) := by
  simp [shr_eq]

/-- The peak flag in arithmetic (R73). -/
theorem sinOne_eq_true_iff (v : Angle) : sinOne v = true ↔ fold v = 0 ∧ v.toNat / 2 ^ 18 % 2 = 1 := by
  simp [sinOne, high1_eq]

/-- The sign of the sine is `high0` (R72, R78). -/
theorem sinY_eq (v : Angle) : sinY v = if v.toNat / 2 ^ 19 % 2 = 1 then -sinPeaked v else sinPeaked v := by
  simp only [sinY, sinNegative, high0_eq, decide_eq_true_eq, neg]

/-- Settles O13: each value of the pseudocode is the natural number that the model's is, and the clamp saturates by range. -/
theorem sinCompletesWithPolynomial : Obligations.SinCompletesWithPolynomial := by
  unfold Obligations.SinCompletesWithPolynomial
  intro angle acc s a lo x1 x2 x3 x5 x7 t1 t3 t5 t7 half peaked y r
  have hx1 : fold angle = x1 := fold_eq angle
  have hx2 : powX2 x1 = x2 := powMul_natCast x1 x1
  have hx3 : sinX3 x1 = x3 := by rw [sinX3, hx2]; exact powMul_natCast x2 x1
  have hx5 : sinX5 x1 = x5 := by rw [sinX5, hx3, hx2]; exact powMul_natCast x3 x2
  have hx7 : sinX7 x1 = x7 := by rw [sinX7, hx5, hx2]; exact powMul_natCast x5 x2
  have ht1 : sinT1 x1 = t1 := shr_mul_natCast 205887 x1 17
  have ht3 : sinT3 x1 = t3 := by rw [sinT3, hx3]; exact shr_mul_natCast 169336 x3 18
  have ht5 : sinT5 x1 = t5 := by rw [sinT5, hx5]; exact shr_mul_natCast 167014 x5 21
  have ht7 : sinT7 x1 = t7 := by rw [sinT7, hx7]; exact shr_mul_natCast 150000 x7 25
  have hhalf : shr (sinSum x1) 1 = half := by rw [sinSum, ht1, ht3, ht5, ht7]; rfl
  have hpeaked : sinPeaked angle = peaked := by
    simp only [sinPeaked, sinOne_eq_true_iff, hx1, hhalf, Int.natCast_eq_zero]
    rfl
  have hy : sinY angle = y := by rw [sinY_eq, hpeaked]
  rw [exec_sin, sinOp, clampResult_eq_max_min (sinY_range angle), hy, min_comm]
  rfl

/-- Settles O15: by evaluating each row. -/
theorem sinCornerCases : Obligations.SinCornerCases := by
  unfold Obligations.SinCornerCases
  decide

-- ## The symmetries

/-- The peak flag marks a quarter turn into either half (R73). -/
theorem sinOne_eq_true_iff_quarter (v : Angle) : sinOne v = true ↔ v.toNat % 2 ^ 19 = 2 ^ 18 := by
  rw [sinOne_eq_true_iff, fold_eq]
  split <;> omega

/-- Except at the peak, the folded argument is the distance to the nearer end of the half turn. -/
theorem fold_eq_min {v : Angle} (h : v.toNat % 2 ^ 19 ≠ 2 ^ 18) :
    fold v = (min (v.toNat % 2 ^ 19) (2 ^ 19 - v.toNat % 2 ^ 19) : Nat) := by
  rw [fold_eq]
  split <;> omega

/-- The sine before its sign depends on the angle modulo half a turn. -/
theorem sinPeaked_eq (v : Angle) :
    sinPeaked v =
      if v.toNat % 2 ^ 19 = 2 ^ 18 then 131072
      else sinSum (min (v.toNat % 2 ^ 19) (2 ^ 19 - v.toNat % 2 ^ 19) : Nat) / 2 := by
  simp only [sinPeaked, sinOne_eq_true_iff_quarter]
  split
  · rfl
  · next h => rw [fold_eq_min h, shr_eq, pow_one]

/-- Two angles equal modulo half a turn have the same sine before its sign. -/
theorem sinPeaked_of_half_turn {v w : Angle} (h : w.toNat % 2 ^ 19 = v.toNat % 2 ^ 19) : sinPeaked w = sinPeaked v := by
  rw [sinPeaked_eq, sinPeaked_eq, h]

/-- Two angles opposite modulo half a turn have the same sine before its sign. -/
theorem sinPeaked_of_mirror {v w : Angle} (h : (v.toNat + w.toNat) % 2 ^ 19 = 0) : sinPeaked w = sinPeaked v := by
  have hpeak : w.toNat % 2 ^ 19 = 2 ^ 18 ↔ v.toNat % 2 ^ 19 = 2 ^ 18 := by omega
  have hmin : min (w.toNat % 2 ^ 19) (2 ^ 19 - w.toNat % 2 ^ 19) = min (v.toNat % 2 ^ 19) (2 ^ 19 - v.toNat % 2 ^ 19) := by
    omega
  simp only [sinPeaked_eq, hpeak, hmin]

theorem sinY_of_high0_eq {v w : Angle} (hp : sinPeaked w = sinPeaked v) (h0 : high0 w = high0 v) : sinY w = sinY v := by
  rw [sinY, sinY, sinNegative, sinNegative, h0, hp]

theorem sinY_of_high0_not {v w : Angle} (hp : sinPeaked w = sinPeaked v) (h0 : high0 w = !high0 v) :
    sinY w = -sinY v := by
  rw [sinY, sinY, sinNegative, sinNegative, h0, hp]
  cases high0 v <;> simp [neg]

/-- A mirror within the same half of the turn keeps the result. -/
theorem sinOp_of_mirror {v w : Angle} (h : (v.toNat + w.toNat) % 2 ^ 19 = 0)
    (hsame : v.toNat / 2 ^ 19 = w.toNat / 2 ^ 19) : sinOp v = sinOp w := by
  have h0 : high0 w = high0 v := by rw [high0_eq, high0_eq, hsame]
  rw [sinOp, sinOp, sinY_of_high0_eq (sinPeaked_of_mirror h) h0]

/-- Settles O20: either relation is a mirror within one half of the turn. -/
theorem sinFoldSymmetry : Obligations.SinFoldSymmetry := by
  unfold Obligations.SinFoldSymmetry
  intro v
  constructor <;> intro hlo hhi
  · apply sinOp_of_mirror <;> simp only [BitVec.toNat_ofNat] <;> omega
  · apply sinOp_of_mirror <;> simp only [BitVec.toNat_ofNat] <;> omega

theorem sinY_xor_half_turn (v : Angle) : sinY (v ^^^ 0x80000) = -sinY v := by
  have hlow : (v ^^^ 0x80000).toNat % 2 ^ 19 = v.toNat % 2 ^ 19 := by
    rw [BitVec.toNat_xor, Nat.xor_mod_two_pow]
    exact Nat.xor_zero _
  exact sinY_of_high0_not (sinPeaked_of_half_turn hlow) (by simp [high0])

theorem sinY_neg {v : Angle} (hv : v ≠ 0) : sinY (-v) = -sinY v := by
  rcases eq_or_ne v 0x80000 with rfl | hhalf
  · decide
  · have hn : (-v).toNat = 2 ^ 20 - v.toNat := by
      rw [BitVec.toNat_neg]
      bv_omega
    have hlt := v.isLt
    refine sinY_of_high0_not (sinPeaked_of_mirror (by omega)) ?_
    rw [high0_eq, high0_eq, ← decide_not, decide_eq_decide]
    bv_omega

/-- Settles O21: the sign flag flips and the rest of the sine stays, but at half a turn, which is its own negative and where
the sine is 0. -/
theorem sinHalfTurnNegation : Obligations.SinHalfTurnNegation := by
  unfold Obligations.SinHalfTurnNegation
  intro v w h
  have hneg : sinY w = -sinY v := by
    rcases h with rfl | ⟨hv, rfl⟩
    · exact sinY_xor_half_turn v
    · exact sinY_neg hv
  rw [sinOp, sinOp, hneg]
  exact ⟨rfl, clampResult_neg (sinY v)⟩

-- ## The extremes and the zeros

/-- On `[a, b]` the final sine sum stays below 2^18, unless `[a, b]` lies where the sine reaches its peak. -/
def sinBelowPeakTest (a b : Int) : Bool := 0x3FE19 ≤ a || sinT1 b - sinT3 a + sinT5 b - sinT7 a < 2 ^ 18

theorem bisect_sinBelowPeakTest : bisect sinBelowPeakTest 18 0 = true := by decide +kernel

section
variable {x : Int} (h0 : 0 ≤ x) (h1 : x < 2 ^ 18)
include h0 h1

theorem sinSum_lt_or_near_peak : 0x3FE19 ≤ x ∨ sinSum x < 2 ^ 18 := by
  refine of_bisect (P := fun x => 0x3FE19 ≤ x ∨ sinSum x < 2 ^ 18) (fun a b x ha hax hxb h => ?_)
    18 0 x le_rfl bisect_sinBelowPeakTest h0 (by omega)
  have ht1 := nonnegMono_sinT1.le (ha.trans hax) hxb
  have ht3 := nonnegMono_sinT3.le ha hax
  have ht5 := nonnegMono_sinT5.le (ha.trans hax) hxb
  have ht7 := nonnegMono_sinT7.le ha hax
  simp only [sinBelowPeakTest, Bool.or_eq_true, decide_eq_true_eq] at h
  simp only [sinSum]
  omega

/-- The sine sum is halved to 0 at the arguments 0 and 1 only. -/
theorem sinSum_half_eq_zero_iff : sinSum x / 2 = 0 ↔ x ≤ 1 := by
  have small : ∀ y ∈ [(0 : Int), 1, 2, 3], sinSum y / 2 = 0 ↔ y ≤ 1 := by decide
  by_cases h4 : 4 ≤ x
  · have hx3 := sinX3_le h0 h1
    have h75 := sinT7_le_sinT5 h0 h1
    have h13 : 2 ≤ sinT1 x - sinT3 x := by
      simp only [sinT1, sinT3, coeffs, shr_eq]
      omega
    simp only [sinSum]
    omega
  · refine small x ?_
    simp only [List.mem_cons, List.not_mem_nil, or_false]
    omega

end

/-- Where the sine before its sign is 131072: at the quarter turn, and near it. -/
theorem near_quarter_of_sinPeaked {v : Angle} (h : sinPeaked v = 131072) :
    0x3FE19 ≤ v.toNat % 2 ^ 19 ∧ v.toNat % 2 ^ 19 ≤ 0x401E7 := by
  rw [sinPeaked_eq] at h
  split at h
  · omega
  · next hne =>
    have hnear := sinSum_lt_or_near_peak
      (Int.natCast_nonneg (min (v.toNat % 2 ^ 19) (2 ^ 19 - v.toNat % 2 ^ 19))) (by omega)
    omega

theorem sinPeaked_eq_zero_iff (v : Angle) :
    sinPeaked v = 0 ↔ v.toNat % 2 ^ 19 ≤ 1 ∨ v.toNat % 2 ^ 19 = 0x7FFFF := by
  rw [sinPeaked_eq]
  split
  · omega
  · next hne =>
    rw [sinSum_half_eq_zero_iff (Int.natCast_nonneg _) (by omega)]
    omega

theorem near_quarter_of_sinY {v : Angle} (h : sinY v = 131072) : 0x3FE19 ≤ v.toNat ∧ v.toNat ≤ 0x401E7 := by
  have hrange := sinPeaked_range v
  rw [sinY_eq] at h
  split at h
  · omega
  · have hnear := near_quarter_of_sinPeaked h
    omega

theorem near_three_quarters_of_sinY {v : Angle} (h : sinY v = -131072) : 0xBFE19 ≤ v.toNat ∧ v.toNat ≤ 0xC01E7 := by
  have hrange := sinPeaked_range v
  rw [sinY_eq] at h
  split at h
  · have hnear := near_quarter_of_sinPeaked (neg_injective h)
    omega
  · omega

theorem sinY_eq_zero_iff (v : Angle) : sinY v = 0 ↔ v ∈ [0x00000, 0x00001, 0x7FFFF, 0x80000, 0x80001, 0xFFFFF] := by
  have habs : sinY v = 0 ↔ sinPeaked v = 0 := by
    rw [sinY_eq]
    split
    · exact neg_eq_zero
    · rfl
  rw [habs, sinPeaked_eq_zero_iff]
  simp only [List.mem_cons, List.not_mem_nil, or_false]
  bv_omega

theorem countP_sinY_eq_max_below_quarter :
    ((List.range' 0x3FE19 487).countP fun n => sinY (BitVec.ofNat 20 n) == 131072) = 66 := by decide +kernel

theorem countP_sinY_eq_max_from_quarter :
    ((List.range' 0x40000 488).countP fun n => sinY (BitVec.ofNat 20 n) == 131072) = 67 := by decide +kernel

/-- Settles O24: the extremes by the bisection of the sine sum and two counts, the zeros by the sums halved to 0. -/
theorem sinRangeExact : Obligations.SinRangeExact := by
  unfold Obligations.SinRangeExact
  refine ⟨fun v => ?_, countP_sinY_eq_max_below_quarter, countP_sinY_eq_max_from_quarter⟩
  obtain ⟨hlo, hhi⟩ := sinY_range v
  have hflip : sinY v = -131072 ↔ sinY (v ^^^ 0x80000) = 131072 := by
    rw [sinY_xor_half_turn]
    omega
  exact ⟨hlo, hhi, near_quarter_of_sinY, near_three_quarters_of_sinY, hflip, sinY_eq_zero_iff v⟩

end Sys2Proof.Proofs
end

section
/-! The cosine obligations (42_cosine.md): the value of the pseudocode, the symmetries, and the exact range with its extremes
and zeros.

The cosine reads an angle through its sign, `high0` xor `high1`, and through `cosZeroed`, which depends on the folded argument
alone but for the two zeros. At the two quarter turns, where the sign of 2^20 - v is not that of v, the zero override makes the
cosine 0 (R89, R90), so that R93's evenness has no exception. -/

namespace Sys2Proof.Proofs

open Sys2Proof.Machine

-- ## The value of the pseudocode

/-- The zero flag in arithmetic: the condition of the sine's peak flag (R73, R85). -/
theorem cosZero_eq_true_iff (v : Angle) : cosZero v = true ↔ fold v = 0 ∧ v.toNat / 2 ^ 18 % 2 = 1 :=
  sinOne_eq_true_iff v

/-- The zero flag marks a quarter turn into either half (R85). -/
theorem cosZero_eq_true_iff_quarter (v : Angle) : cosZero v = true ↔ v.toNat % 2 ^ 19 = 2 ^ 18 :=
  sinOne_eq_true_iff_quarter v

/-- The sign flag is set where `high0` and `high1` differ (R84). -/
theorem cosNegative_eq_true_iff (v : Angle) :
    cosNegative v = true ↔ v.toNat / 2 ^ 19 % 2 ≠ v.toNat / 2 ^ 18 % 2 := by
  rw [cosNegative, Bool.xor_iff_ne, high0_eq, high1_eq, ne_eq, decide_eq_decide]
  omega

theorem cosY_eq (v : Angle) :
    cosY v = if v.toNat / 2 ^ 19 % 2 = v.toNat / 2 ^ 18 % 2 then cosZeroed v else -cosZeroed v := by
  simp only [cosY, cosNegative_eq_true_iff, neg, ite_not]

/-- Settles O14: each value of the pseudocode is the natural number that the model's is, and the clamp saturates by range. -/
theorem cosCompletesWithPolynomial : Obligations.CosCompletesWithPolynomial := by
  unfold Obligations.CosCompletesWithPolynomial
  intro angle acc s a lo x1 x2 x4 x6 x8 t2 t4 t6 t8 half zeroed y r
  have hx1 : fold angle = x1 := fold_eq angle
  have hx2 : powX2 x1 = x2 := powMul_natCast x1 x1
  have hx4 : cosX4 x1 = x4 := by rw [cosX4, hx2]; exact powMul_natCast x2 x2
  have hx6 : cosX6 x1 = x6 := by rw [cosX6, hx4, hx2]; exact powMul_natCast x4 x2
  have hx8 : cosX8 x1 = x8 := by rw [cosX8, hx4]; exact powMul_natCast x4 x4
  have ht2 : cosT2 x1 = t2 := by rw [cosT2, hx2]; exact shr_mul_natCast 161704 x2 17
  have ht4 : cosT4 x1 = t4 := by rw [cosT4, hx4]; exact shr_mul_natCast 132996 x4 19
  have ht6 : cosT6 x1 = t6 := by rw [cosT6, hx6]; exact shr_mul_natCast 175016 x6 23
  have ht8 : cosT8 x1 = t8 := by rw [cosT8, hx8]; exact shr_mul_natCast 241700 x8 28
  have hhalf : shr (cosSum x1) 1 = half := by rw [cosSum, ht2, ht4, ht6, ht8]; rfl
  have hzeroed : cosZeroed angle = zeroed := by
    simp only [cosZeroed, cosZero_eq_true_iff, hx1, hhalf, Int.natCast_eq_zero]
    rfl
  have hy : cosY angle = y := by rw [cosY_eq, hzeroed]
  rw [exec_cos, cosOp, clampResult_eq_max_min (cosY_range angle), hy, min_comm]
  rfl

/-- Settles O16: by evaluating each row. -/
theorem cosCornerCases : Obligations.CosCornerCases := by
  unfold Obligations.CosCornerCases
  decide

-- ## The symmetries

/-- The cosine before its sign depends on the angle modulo half a turn. -/
theorem cosZeroed_eq (v : Angle) :
    cosZeroed v =
      if v.toNat % 2 ^ 19 = 2 ^ 18 then 0
      else cosSum (min (v.toNat % 2 ^ 19) (2 ^ 19 - v.toNat % 2 ^ 19) : Nat) / 2 := by
  simp only [cosZeroed, cosZero_eq_true_iff_quarter]
  split
  · rfl
  · next h => rw [fold_eq_min h, shr_eq, pow_one]

/-- Two angles opposite in the whole turn have the same cosine, the sign included. -/
theorem cosY_of_mirror {v w : Angle} (h : v.toNat + w.toNat = 2 ^ 20) : cosY w = cosY v := by
  have hquarter : w.toNat % 2 ^ 19 = 2 ^ 18 ↔ v.toNat % 2 ^ 19 = 2 ^ 18 := by omega
  have hmin : min (w.toNat % 2 ^ 19) (2 ^ 19 - w.toNat % 2 ^ 19) = min (v.toNat % 2 ^ 19) (2 ^ 19 - v.toNat % 2 ^ 19) := by
    omega
  have hzeroed : cosZeroed w = cosZeroed v := by simp only [cosZeroed_eq, hquarter, hmin]
  rw [cosY_eq, cosY_eq, hzeroed]
  by_cases hv : v.toNat % 2 ^ 19 = 2 ^ 18
  · have hzero : cosZeroed v = 0 := by rw [cosZeroed_eq, if_pos hv]
    simp [hzero]
  · have hsign : w.toNat / 2 ^ 19 % 2 = w.toNat / 2 ^ 18 % 2 ↔ v.toNat / 2 ^ 19 % 2 = v.toNat / 2 ^ 18 % 2 := by omega
    simp only [hsign]

/-- Settles O22: 2^20 - v is opposite to v in the whole turn. -/
theorem cosIsEven : Obligations.CosIsEven := by
  unfold Obligations.CosIsEven
  intro v hlo hhi
  have hmirror : (BitVec.ofNat 20 v).toNat + (BitVec.ofNat 20 (2 ^ 20 - v)).toNat = 2 ^ 20 := by
    simp only [BitVec.toNat_ofNat]
    omega
  rw [cosOp, cosOp, cosY_of_mirror hmirror]

theorem high1_xor_half_turn (v : Angle) : high1 (v ^^^ 0x80000) = high1 v := by simp [high1]

theorem high0_xor_half_turn (v : Angle) : high0 (v ^^^ 0x80000) = !high0 v := by simp [high0]

theorem fold_xor_half_turn (v : Angle) : fold (v ^^^ 0x80000) = fold v := by
  have hlow : (v ^^^ 0x80000).extractLsb' 0 18 = v.extractLsb' 0 18 := by simp [BitVec.extractLsb'_xor]
  rw [fold, fold, low18, low18, high1_xor_half_turn, hlow]

theorem cosZeroed_xor_half_turn (v : Angle) : cosZeroed (v ^^^ 0x80000) = cosZeroed v := by
  rw [cosZeroed, cosZeroed, cosZero, cosZero, fold_xor_half_turn, high1_xor_half_turn]

theorem cosY_xor_half_turn (v : Angle) : cosY (v ^^^ 0x80000) = -cosY v := by
  have hsign : cosNegative (v ^^^ 0x80000) = !cosNegative v := by
    rw [cosNegative, cosNegative, high0_xor_half_turn, high1_xor_half_turn, Bool.not_xor]
  rw [cosY, cosY, hsign, cosZeroed_xor_half_turn]
  cases cosNegative v <;> simp [neg]

/-- Settles O23: the sign flag flips and the rest of the cosine stays. -/
theorem cosHalfTurnNegation : Obligations.CosHalfTurnNegation := by
  unfold Obligations.CosHalfTurnNegation
  intro v
  rw [cosOp, cosOp, cosY_xor_half_turn]
  exact ⟨rfl, clampResult_neg (cosY v)⟩

-- ## The extremes and the zeros

section
variable {x : Int} (h0 : 0 ≤ x) (h1 : x < 2 ^ 18)
include h0 h1

/-- From 512 on `x2` is at least 1, and keeps the terms that the cosine adds below the first that it subtracts. -/
theorem cosSum_lt (h : 512 ≤ x) : cosSum x < 262144 := by
  have h2 : 1 ≤ powX2 x := nonnegMono_powX2.le (by decide) h
  have h4 := cosX4_le_powX2 h0 h1
  have h8 := cosX8_le_cosX4 h0 h1
  have h6 := (cosT6_range h0 h1).1
  have ht2 : powX2 x ≤ cosT2 x := by
    simp only [cosT2, coeffs, shr_eq]
    omega
  have ht48 : cosT4 x + cosT8 x < powX2 x := by
    simp only [cosT4, cosT8, coeffs, shr_eq]
    omega
  simp only [cosSum]
  omega

/-- Up to 511 every term is 0, as it is at 511. -/
theorem cosSum_eq_max (h : x ≤ 511) : cosSum x = 262144 := by
  have ht2 : cosT2 x ≤ 0 := nonnegMono_cosT2.le h0 h
  have ht6 : cosT6 x ≤ 0 := nonnegMono_cosT6.le h0 h
  have ht4 := (cosT4_range h0 h1).1
  have ht8 := (cosT8_range h0 h1).1
  have hmax := (cosSum_range h0 h1).2
  simp only [cosSum] at hmax ⊢
  omega

theorem cosSum_half_eq_max_iff : cosSum x / 2 = 131072 ↔ x ≤ 511 := by
  refine ⟨fun h => ?_, fun h => by rw [cosSum_eq_max h0 h1 h]; rfl⟩
  by_contra hgt
  have hlt := cosSum_lt h0 h1 (by omega)
  omega

end

theorem cosZeroed_eq_max_iff (v : Angle) :
    cosZeroed v = 131072 ↔ v.toNat % 2 ^ 19 ≤ 0x1FF ∨ 0x7FE01 ≤ v.toNat % 2 ^ 19 := by
  rw [cosZeroed_eq]
  split
  · omega
  · next hne =>
    rw [cosSum_half_eq_max_iff (Int.natCast_nonneg _) (by omega)]
    omega

/-- The cosine sum is never halved to 0, so the override alone makes a zero (R89). -/
theorem cosZeroed_eq_zero_iff (v : Angle) : cosZeroed v = 0 ↔ v.toNat % 2 ^ 19 = 2 ^ 18 := by
  rw [← cosZero_eq_true_iff_quarter, cosZeroed]
  have hsum := (cosSum_range (fold_nonneg v) (fold_lt v)).1
  split
  · next h => exact iff_of_true rfl h
  · next h => exact iff_of_false (by rw [shr_eq]; omega) h

theorem cosY_eq_max_iff (v : Angle) : cosY v = 131072 ↔ v.toNat ≤ 0x1FF ∨ 0xFFE01 ≤ v.toNat := by
  have hrange := cosZeroed_range v
  have hmax := cosZeroed_eq_max_iff v
  rw [cosY_eq]
  split <;> omega

theorem cosY_eq_min_iff (v : Angle) : cosY v = -131072 ↔ 0x7FE01 ≤ v.toNat ∧ v.toNat ≤ 0x801FF := by
  have hrange := cosZeroed_range v
  have hmax := cosZeroed_eq_max_iff v
  rw [cosY_eq]
  split <;> omega

theorem cosY_eq_zero_iff (v : Angle) : cosY v = 0 ↔ v = 0x40000 ∨ v = 0xC0000 := by
  have habs : cosY v = 0 ↔ cosZeroed v = 0 := by
    rw [cosY_eq]
    split
    · rfl
    · exact neg_eq_zero
  rw [habs, cosZeroed_eq_zero_iff]
  bv_omega

/-- Settles O25: the extremes where every term is 0, the zeros where the override stands. -/
theorem cosRangeExact : Obligations.CosRangeExact := by
  unfold Obligations.CosRangeExact
  intro v
  obtain ⟨hlo, hhi⟩ := cosY_range v
  exact ⟨hlo, hhi, cosY_eq_max_iff v, cosY_eq_min_iff v, cosY_eq_zero_iff v⟩

end Sys2Proof.Proofs
end

section
/-! The exception obligations (60_exceptions.md): which requests fault, what fault entry leaves, the halt, and the request that
waits at the port of a halted unit.

A cycle whose due answer leaves the unit faulted accepts nothing and ends with it (`cycle_of_answerDue_fault`): the cycle that
enters the fault state and every cycle that stays in it are of this kind. -/

namespace Sys2Proof.Proofs

open Sys2Proof.Machine

-- ## Which requests fault

theorem clampResult_eq_error_iff (v : Int) : clampResult v = .error .clampPost ↔ clampTo 18 v = .error .clampPost := by
  rcases hc : clampTo 18 v with e | c
  · simp [clampResult_of_error hc]
  · simp [clampResult_of_ok hc]

/-- CLAMP faults under the condition of 40_overflow_clamp.md R64, with bits 18 and 17 read from the operand. -/
theorem clampOp_eq_error_iff (acc : Acc) :
    clampOp acc = .error .clampPost ↔
      acc.getLsbD 18 = acc.getLsbD 17 ∧ ¬ (-131072 ≤ acc.toInt ∧ acc.toInt < 131072) := by
  rw [clampOp, clampResult_eq_error_iff, clampTo_eq_error_iff _ (by decide), ← bitOf_eq_bitOf_iff,
    bitOf_readAcc acc (by decide), bitOf_readAcc acc (by decide)]
  rfl

theorem getLsbD_accField (req : ReqWord) {i : Nat} (hi : i < 32) : (accField req).getLsbD i = req.getLsbD (22 + i) := by
  simp [accField, hi]

/-- Everything the outcome of a request can be, by its operation select: a result of SIN or COS, the answer of CLAMP, or the
fault of the reserved encoding. -/
theorem outcomeOf_cases (req : ReqWord) :
    ((req.toNat % 4 = 0 ∨ req.toNat % 4 = 1) ∧ ∃ r, outcomeOf req = .ok r) ∨
    (req.toNat % 4 = 2 ∧ outcomeOf req = clampOp (accField req)) ∨
    (req.toNat % 4 = 3 ∧ outcomeOf req = .error .illegalOp) := by
  have hop : req.toNat % 4 = 0 ∨ req.toNat % 4 = 1 ∨ req.toNat % 4 = 2 ∨ req.toNat % 4 = 3 := by omega
  rcases hop with h | h | h | h
  · obtain ⟨r, hr⟩ := sinOp_ok (angleField req)
    exact .inl ⟨.inl h, r, by simp [outcomeOf, decode_of_op_zero ((opField_eq_iff req 0).2 h), hr]⟩
  · obtain ⟨r, hr⟩ := cosOp_ok (angleField req)
    exact .inl ⟨.inr h, r, by simp [outcomeOf, decode_of_op_one ((opField_eq_iff req 1).2 h), hr]⟩
  · exact .inr (.inl ⟨h, by simp [outcomeOf, decode_of_op_two ((opField_eq_iff req 2).2 h)]⟩)
  · exact .inr (.inr ⟨h, outcomeOf_of_op_three ((opField_eq_iff req 3).2 h)⟩)

/-- Settles O29: SIN and COS have a result, the clamp raises no cause but CLAMP_POST, and ILLEGAL_OP is the reserved
encoding's alone. -/
theorem onlyClampAndReservedFault : Obligations.OnlyClampAndReservedFault := by
  unfold Obligations.OnlyClampAndReservedFault
  refine ⟨rfl, rfl, fun req => ?_⟩
  rcases outcomeOf_cases req with ⟨hop, r, ho⟩ | ⟨hop, ho⟩ | ⟨hop, ho⟩ <;> rw [ho]
  · exact ⟨iff_of_false nofun (by omega), iff_of_false nofun (by omega), fun _ => ⟨r, rfl⟩⟩
  · have hno : clampOp (accField req) ≠ .error .illegalOp := fun h => nomatch clampResult_error h
    refine ⟨?_, iff_of_false hno (by omega), by omega⟩
    rw [clampOp_eq_error_iff, getLsbD_accField req (by decide), getLsbD_accField req (by decide)]
    exact (and_iff_right hop).symm
  · exact ⟨iff_of_false nofun (by omega), iff_of_true rfl hop, by omega⟩

-- ## Fault entry and the halt, in the transaction step

theorem causeCode_eq_one_or_two (c : FaultCause) : causeCode c = 1 ∨ causeCode c = 2 := by
  cases c with
  | clampPost => exact .inl rfl
  | illegalOp => exact .inr rfl

/-- The end of a request faults a unit only by entering the fault of the request's outcome. -/
theorem finish_eq_enterFault {o : Except FaultCause Res} {s : State} (hf : s.fault = false)
    (h : (finish o s).fault = true) : ∃ c, finish o s = enterFault c s := by
  cases o with
  | ok r => simp [hf] at h
  | error c => exact ⟨c, rfl⟩

/-- A step faults a unit only by fault entry. -/
theorem eq_enterFault_of_step {s t : State} (h : step s = .next t) (hf : s.fault = false) (hf' : t.fault = true) :
    ∃ c s', t = enterFault c s' := by
  rcases step_cases h with ⟨_, -, rfl⟩ | ⟨-, f, fs, -, rfl⟩ | ⟨-, -, req, rest, -, rfl⟩ | ⟨rfl, -⟩
  · simp at hf'
  · obtain ⟨c, hc⟩ := finish_eq_enterFault (s := { s with inFlight := fs }) hf hf'
    exact ⟨c, _, hc⟩
  · obtain ⟨c, hc⟩ := finish_eq_enterFault (s := { s with host := rest }) hf hf'
    exact ⟨c, _, hc⟩
  · simp [hf] at hf'

/-- Settles O32: the step is a fault entry. -/
theorem faultEntryState : Obligations.FaultEntryState := by
  unfold Obligations.FaultEntryState
  intro s t h hf hf'
  obtain ⟨c, s', rfl⟩ := eq_enterFault_of_step h hf hf'
  exact ⟨rfl, rfl, rfl, rfl, causeCode_eq_one_or_two c⟩

/-- Without a reset, a faulted unit takes the halted step. -/
theorem step_of_fault {s : State} (hw : s.wasReset = true) (hc : s.cause ≠ 3) (hf : s.fault = true)
    (hr : ∀ rest, s.host ≠ .applyReset :: rest) : step s = haltedStep s := by
  unfold step transaction
  split
  · rename_i rest hh
    exact absurd hh (hr rest)
  · simp [(noMove_eq_none_iff s).2 ⟨hw, hc⟩, accepts, hf]

theorem haltedStep_of_present {s : State} {req : ReqWord} {rest : List HostAction} (hh : s.host = .present req :: rest) :
    haltedStep s = .fault .requestNotAccepted := by
  simp [haltedStep, hh]

theorem haltedStep_of_nil {s : State} (hh : s.host = []) : haltedStep s = .next (idle s) := by
  simp [haltedStep, hh]

/-- Settles O33: by the halted step, with and without a request presented. -/
theorem faultHaltsTheUnit : Obligations.FaultHaltsTheUnit := by
  unfold Obligations.FaultHaltsTheUnit
  intro s hw hc hf
  refine ⟨fun ⟨_, req, rest, hh⟩ => ?_, fun hh => ?_⟩
  · exact (step_of_fault hw hc hf (by simp [hh])).trans (haltedStep_of_present hh)
  · exact (step_of_fault hw hc hf (by simp [hh])).trans (haltedStep_of_nil hh)

-- ## Fault entry and the halt, in the clock cycle

/-- A cycle in which the due answer leaves the unit faulted accepts nothing, whatever is presented. -/
theorem cycle_of_answerDue_fault {p : Params} {inp : PortIn} {s s' : State} (hw : s.wasReset = true) (hc : s.cause ≠ 3)
    (hr : inp.rst = false) (ha : answerDue (tick s) = .next s') (hf : s'.fault = true) : cycle p inp s = .next s' := by
  simp [cycle, presentsInFirstReset, hr, (noMove_eq_none_iff s).2 ⟨hw, hc⟩, ha, accepts, hf]

/-- Settles O53: the due answer is the fault entry, which empties the flight. -/
theorem faultDiscardsYoungerRequests : Obligations.FaultDiscardsYoungerRequests := by
  unfold Obligations.FaultDiscardsYoungerRequests
  intro p inp s f fs c hw hc hr hfl hleft ho
  have hdue := answerDue_of_due (s := tick s) (by rw [tick_inFlight, hfl, List.map_cons]) (by simp only [hleft])
  rw [ho] at hdue
  exact cycle_of_answerDue_fault hw hc hr hdue rfl

theorem answerDue_tick_of_nil {s : State} (he : s.inFlight = []) : answerDue (tick s) = .next (tick s) :=
  answerDue_of_nil (by simp [he])

/-- A cycle of a halted unit is the tick alone, whatever is presented, unless it is a reset. -/
theorem cycle_of_halted {p : Params} {inp : PortIn} {s : State} (hw : s.wasReset = true) (hc : s.cause ≠ 3)
    (hr : inp.rst = false) (hf : s.fault = true) (he : s.inFlight = []) : cycle p inp s = .next (tick s) :=
  cycle_of_answerDue_fault hw hc hr (answerDue_tick_of_nil he) hf

/-- Settles O34: short of a reset, the step of a faulted unit is idle and its cycle a tick. -/
theorem onlyResetLeavesFault : Obligations.OnlyResetLeavesFault := by
  unfold Obligations.OnlyResetLeavesFault
  refine ⟨fun s t h hf => ?_, fun p inp s t h hf he => ?_⟩
  · rcases step_cases h with ⟨rest, hh, -⟩ | ⟨hf', -⟩ | ⟨hf', -⟩ | ⟨rfl, -⟩
    · exact .inl ⟨rest, hh⟩
    · simp [hf] at hf'
    · simp [hf] at hf'
    · exact .inr ⟨hf, rfl⟩
  · rcases cycle_cases h with ⟨hr, -⟩ | ⟨hr, hw, hc, -⟩
    · exact .inl hr
    · obtain rfl : tick s = t := Host.Outcome.next.inj ((cycle_of_halted hw hc hr hf he).symm.trans h)
      exact .inr ⟨hf, rfl⟩

theorem faultIrqLevel_eq_true_iff (p : Params) (s : State) :
    faultIrqLevel p s = true ↔ p.faultIrq = true ∧ s.fault = true := by
  simp [faultIrqLevel]

/-- Settles O46: a cycle that ends the level leaves the fault state, in which nothing is in flight. -/
theorem faultInterruptIsLevelSensitive : Obligations.FaultInterruptIsLevelSensitive := by
  unfold Obligations.FaultInterruptIsLevelSensitive
  intro p inp s t
  refine ⟨faultIrqLevel_eq_true_iff p s, fun hi h hpend hend => ?_⟩
  obtain ⟨hirq, hf⟩ := (faultIrqLevel_eq_true_iff p s).1 hpend
  refine (onlyResetLeavesFault.2 p inp s t h hf (hi.fault_empty hf)).resolve_right fun ⟨hf', _⟩ => ?_
  exact Bool.eq_false_iff.1 hend ((faultIrqLevel_eq_true_iff p t).2 ⟨hirq, hf'⟩)

-- ## The request that waits at the port

theorem andThen_assoc {α β γ : Type} (o : Host.Outcome α Fault Refusal) (f : α → Host.Outcome β Fault Refusal)
    (g : β → Host.Outcome γ Fault Refusal) : andThen (andThen o f) g = andThen o fun a => andThen (f a) g := by
  cases o <;> rfl

/-- The cycles of two lists of inputs come one after the other. -/
theorem cycles_append (p : Params) (l m : List PortIn) (x : Port) :
    cycles p (l ++ m) x = andThen (cycles p l x) (cycles p m) := by
  induction l generalizing x with
  | nil => rfl
  | cons inp l ih =>
    have ih' : cycles p (l ++ m) = fun y => andThen (cycles p l y) (cycles p m) := funext ih
    rw [List.cons_append, cycles, cycles, andThen_assoc, ih']

/-- A halted unit delivers no response, so a tick changes nothing of it. -/
theorem tick_of_halted {s : State} (h : Inv s) (hf : s.fault = true) : tick s = s := by
  have hresult : s.result = none := by simpa [h.fault_invalid hf] using h.valid_iff
  have hresp : s.resp = none := Option.eq_none_iff_forall_ne_some.2 fun r hr =>
    nomatch hresult.symm.trans (h.resp_result r hr)
  rw [tick, h.fault_empty hf, List.map_nil, ← hresp, ← h.fault_empty hf]

/-- A changed request has no move (70_reset_and_hazards.md R122). -/
theorem portCycle_of_changed {p : Params} {inp : PortIn} {req : ReqWord} {x : Port} (hx : x.waiting = some req)
    (hv : inp.reqValid = true) (hne : portReq inp ≠ req) : portCycle p inp x = .refused .requestChanged := by
  simp [portCycle, changesRequest, hx, hv, hne]

/-- A reset at the port, in which the waiting request is held, leaves it waiting. -/
theorem portCycle_of_rst {p : Params} {inp : PortIn} {x : Port} (hw : x.unit.wasReset = true) (hr : inp.rst = true)
    (hv : inp.reqValid = true) (hx : x.waiting = some (portReq inp)) :
    portCycle p inp x = .next { unit := applyReset x.unit, waiting := some (portReq inp) } := by
  rw [portCycle_of_cycle ((changesRequest_eq_false_iff _ _).2 (.inr (.inr hx))) (cycle_of_rst hr fun _ => hw)]
  simp [waitingAfter, hv, reqReady_of_rst hr]

/-- A halted unit, as the invariant has it, and the request `req` waiting at its port (60_exceptions.md R98). -/
structure WaitsHalted (req : ReqWord) (x : Port) : Prop where
  inv : Inv x.unit
  wasReset : x.unit.wasReset = true
  fault : x.unit.fault = true
  waiting : x.waiting = some req

/-- A cycle that holds the waiting request leaves the unit and the request as they were. -/
theorem WaitsHalted.portCycle_of_held {p : Params} {inp : PortIn} {req : ReqWord} {x : Port} (h : WaitsHalted req x)
    (hr : inp.rst = false) (hv : inp.reqValid = true) (hq : portReq inp = req) : portCycle p inp x = .next x := by
  have hempty := h.inv.fault_empty h.fault
  have hcycle := cycle_of_halted (p := p) h.wasReset h.inv.cause_legal hr h.fault hempty
  have hready := reqReady_of_answerDue (inp := inp) (answerDue_tick_of_nil hempty)
  rw [tick_of_halted h.inv h.fault] at hcycle hready
  have hx : x.waiting = some (portReq inp) := by rw [hq, h.waiting]
  rw [portCycle_of_cycle ((changesRequest_eq_false_iff _ _).2 (.inr (.inr hx))) hcycle]
  simp [waitingAfter, hready, h.fault, hv, ← hx]

theorem WaitsHalted.cycles_of_held {p : Params} {inputs : List PortIn} {req : ReqWord} {x : Port}
    (h : WaitsHalted req x) (hin : ∀ i ∈ inputs, i.rst = false ∧ i.reqValid = true)
    (hheld : ∀ i ∈ inputs, portReq i = req) : cycles p inputs x = .next x := by
  induction inputs with
  | nil => rfl
  | cons inp rest ih =>
    obtain ⟨⟨hr, hv⟩, hins⟩ := List.forall_mem_cons.1 hin
    obtain ⟨hq, hqs⟩ := List.forall_mem_cons.1 hheld
    rw [cycles, h.portCycle_of_held hr hv hq, andThen_next, ih hins hqs]

/-- The first cycle that changes the waiting request ends the run; those before it hold it. -/
theorem WaitsHalted.cycles_of_changed {p : Params} {inputs : List PortIn} {req : ReqWord} {x : Port}
    (h : WaitsHalted req x) (hin : ∀ i ∈ inputs, i.rst = false ∧ i.reqValid = true)
    (hchanged : ∃ i ∈ inputs, portReq i ≠ req) : cycles p inputs x = .refused .requestChanged := by
  induction inputs with
  | nil => simp at hchanged
  | cons inp rest ih =>
    obtain ⟨⟨hr, hv⟩, hins⟩ := List.forall_mem_cons.1 hin
    by_cases hq : portReq inp = req
    · rw [cycles, h.portCycle_of_held hr hv hq, andThen_next]
      exact ih hins (by simpa [hq] using hchanged)
    · rw [cycles, portCycle_of_changed h.waiting hv hq]
      rfl

/-- The waiting request is held through a reset cycle, and is accepted in the cycle after it. -/
theorem WaitsHalted.cycles_of_reset {p : Params} {r a : PortIn} {req : ReqWord} {x : Port} (h : WaitsHalted req x)
    (hrr : r.rst = true) (hrv : r.reqValid = true) (hrq : portReq r = req) (har : a.rst = false)
    (hav : a.reqValid = true) (haq : portReq a = req) (hl : p.latency ≠ 0) :
    cycles p [r, a] x = .next { unit := enqueue p req (tick (applyReset x.unit)), waiting := none } := by
  have hreset := portCycle_of_rst (p := p) h.wasReset hrr hrv (hrq ▸ h.waiting)
  have haccept := portCycle_of_answerDue (inp := a) (x := { unit := applyReset x.unit, waiting := some (portReq r) })
    rfl (by simp) har hl ((changesRequest_eq_false_iff _ _).2 (.inr (.inr (by rw [hrq, haq]))))
    (answerDue_tick_of_nil rfl) rfl
  rw [if_pos hav, haq] at haccept
  simp only [cycles, hreset, haccept, andThen_next]

/-- Settles O56: a held request changes nothing, a changed one is refused, and a reset clears the halt for the cycle after it. -/
theorem pendingRequestWaitsUnchanged : Obligations.PendingRequestWaitsUnchanged := by
  unfold Obligations.PendingRequestWaitsUnchanged
  intro p req inputs x hi hw hf hx hin
  have h : WaitsHalted req x := ⟨hi, hw, hf, hx⟩
  refine ⟨fun hheld => ⟨h.cycles_of_held hin hheld, fun r a hrr hrv hrq har hav haq hl => ?_⟩, h.cycles_of_changed hin⟩
  rw [cycles_append, h.cycles_of_held hin hheld, andThen_next, h.cycles_of_reset hrr hrv hrq har hav haq hl.ne']
  rfl

end Sys2Proof.Proofs
end

section
/-! The reset and hazard obligations (70_reset_and_hazards.md): reset at the step and at the port, the moves that there are before
the first reset, the requests that a reset discards, and the host's actions that have a move.

A host may drive exactly the inputs that present nothing before or in the first reset and change no waiting request
(`hostMayDrive_iff`), and those are the tests that the cycle and the cycle at the port make. -/

namespace Sys2Proof.Proofs

open Sys2Proof.Machine

-- ## Reset

/-- Reset leaves of a state what the host does next, and nothing else (R110). -/
theorem applyReset_eq (s : State) : applyReset s = { State.reset with host := s.host } := rfl

theorem step_of_applyReset {s : State} {rest : List HostAction} (hh : s.host = .applyReset :: rest) :
    step s = .next { State.reset with host := rest } := by
  simp [step, transaction, hh, applyReset_eq]

/-- Settles O37: the step tests for a reset first, and reset empties the flight. -/
theorem resetComesBeforeRequestsInFlight : Obligations.ResetComesBeforeRequestsInFlight := by
  unfold Obligations.ResetComesBeforeRequestsInFlight
  intro s rest hh
  exact step_of_applyReset hh

/-- Settles O36: by the reset step and the reset cycle. -/
theorem resetFromAnyState : Obligations.ResetFromAnyState := by
  unfold Obligations.ResetFromAnyState
  exact ⟨fun _ _ _ hh => step_of_applyReset hh, fun _ _ _ hr hq => ⟨cycle_of_rst hr hq, reqReady_of_rst hr⟩⟩

-- ## The moves before the first reset and with CAUSE 3

theorem noMove_of_not_wasReset {s : State} (hw : s.wasReset = false) : noMove s = some .neverReset := by
  simp [noMove, hw]

theorem noMove_of_cause_three {s : State} (hw : s.wasReset = true) (hc : s.cause = 3) :
    noMove s = some .reservedCause := by
  simp [noMove, hw, hc]

/-- A step without a reset is refused in a state that has no move. -/
theorem step_of_noMove {s : State} {r : Refusal} (hn : noMove s = some r) (hr : ∀ rest, s.host ≠ .applyReset :: rest) :
    step s = .refused r := by
  unfold step transaction
  split
  · next rest hh => exact absurd hh (hr rest)
  · rw [hn]

/-- A cycle without a reset is refused in a state that has no move. -/
theorem cycle_of_noMove {p : Params} {inp : PortIn} {s : State} {r : Refusal} (hn : noMove s = some r)
    (hr : inp.rst = false) : cycle p inp s = .refused r := by
  simp [cycle, presentsInFirstReset, hr, hn]

/-- A request presented in the cycle of the first reset is refused (R114, R122). -/
theorem cycle_of_request_in_first_reset {p : Params} {inp : PortIn} {s : State} (hw : s.wasReset = false)
    (hr : inp.rst = true) (hv : inp.reqValid = true) : cycle p inp s = .refused .neverReset := by
  simp [cycle, presentsInFirstReset, hw, hr, hv]

/-- Settles O38: without a reset both levels ask `noMove`, and a request in the cycle of the first reset is refused before it. -/
theorem noMoveButReset : Obligations.NoMoveButReset := by
  unfold Obligations.NoMoveButReset
  intro s hnoReset
  refine ⟨fun hw => ?_, fun hw hc => ?_⟩
  · have hn := noMove_of_not_wasReset hw
    refine ⟨step_of_noMove hn hnoReset, fun p inp hdrive => ?_⟩
    rcases hr : inp.rst
    case false => exact cycle_of_noMove hn hr
    case true => exact cycle_of_request_in_first_reset hw hr (hdrive.resolve_left (by simp [hr]))
  · have hn := noMove_of_cause_three hw hc
    exact ⟨step_of_noMove hn hnoReset, fun p inp => cycle_of_noMove hn⟩

-- ## The host at the port

/-- R122 in the tests that the cycle and the cycle at the port make. -/
theorem hostMayDrive_iff (inp : PortIn) (x : Port) :
    hostMayDrive inp x ↔ (inp.reqValid = true → x.unit.wasReset = true) ∧ changesRequest inp x.waiting = false := by
  rw [hostMayDrive, changesRequest_eq_false_iff, imp_and, ← Bool.not_eq_true, ← imp_iff_not_or]

/-- A cycle that answers presents no request before or in the first reset. -/
theorem wasReset_of_cycle_request {p : Params} {inp : PortIn} {s t : State} (h : cycle p inp s = .next t)
    (hv : inp.reqValid = true) : s.wasReset = true := by
  rcases cycle_cases h with ⟨-, hw, -⟩ | ⟨-, hw, -⟩
  · exact hw hv
  · exact hw

theorem waitingAfter_eq_some_iff (inp : PortIn) (s : State) (req : ReqWord) :
    waitingAfter inp s = some req ↔ inp.reqValid = true ∧ reqReady inp s = false ∧ req = portReq inp := by
  simp [waitingAfter, and_assoc, eq_comm (a := req)]

/-- Settles O55: the cycle at the port is the unit's own after the test for a changed request. -/
theorem onlyHostMovesRun : Obligations.OnlyHostMovesRun := by
  unfold Obligations.OnlyHostMovesRun
  intro p inp x
  refine ⟨fun y h => ?_, fun hdrive t h => ?_, fun req hx hv hne => portCycle_of_changed hx hv hne⟩
  · obtain ⟨hkept, hcycle, hwaiting⟩ := portCycle_cases h
    rw [hwaiting]
    exact ⟨(hostMayDrive_iff inp x).2 ⟨wasReset_of_cycle_request hcycle, hkept⟩, hcycle,
      waitingAfter_eq_some_iff inp x.unit⟩
  · exact ⟨_, portCycle_of_cycle ((hostMayDrive_iff inp x).1 hdrive).2 h, rfl⟩

-- ## The requests that a reset discards

/-- A cycle that presents no request and resets nothing is the due answer alone. -/
theorem cycle_of_no_request {p : Params} {inp : PortIn} {s t : State} (hw : s.wasReset = true) (hc : s.cause ≠ 3)
    (hr : inp.rst = false) (hv : inp.reqValid = false) (ha : answerDue (tick s) = .next t) : cycle p inp s = .next t := by
  simp [cycle, presentsInFirstReset, hr, hv, (noMove_eq_none_iff s).2 ⟨hw, hc⟩, ha]

/-- Without a request a unit in its reset state stays there, reset again or not. -/
theorem cycle_applyReset_of_no_request {p : Params} {inp : PortIn} (hv : inp.reqValid = false) (s : State) :
    cycle p inp (applyReset s) = .next (applyReset s) := by
  rcases hr : inp.rst
  case false => exact cycle_of_no_request rfl (by simp) hr hv (answerDue_tick_of_nil rfl)
  case true => exact cycle_of_rst hr fun _ => rfl

/-- Likewise for any number of cycles at its port, whatever request waits there at first. -/
theorem cycles_applyReset_of_no_request {p : Params} {inputs : List PortIn} (hv : ∀ i ∈ inputs, i.reqValid = false)
    (s : State) (waiting : Option ReqWord) :
    ∃ y, cycles p inputs { unit := applyReset s, waiting := waiting } = .next y ∧ y.unit = applyReset s := by
  induction inputs generalizing waiting with
  | nil => exact ⟨_, rfl, rfl⟩
  | cons inp rest ih =>
    obtain ⟨hv0, hvs⟩ := List.forall_mem_cons.1 hv
    rw [cycles, portCycle_of_cycle ((changesRequest_eq_false_iff _ _).2 (.inl hv0))
      (cycle_applyReset_of_no_request hv0 s), andThen_next]
    exact ih hvs _

/-- Settles O54: the reset empties the flight, and the cycles after it keep the reset state. -/
theorem resetDiscardsRequestsInFlight : Obligations.ResetDiscardsRequestsInFlight := by
  unfold Obligations.ResetDiscardsRequestsInFlight
  intro p inp rest x hr hdrive hv
  obtain ⟨hw, hkept⟩ := (hostMayDrive_iff inp x).1 hdrive
  rw [cycles, portCycle_of_cycle hkept (cycle_of_rst hr hw), andThen_next]
  exact cycles_applyReset_of_no_request hv x.unit _

end Sys2Proof.Proofs
end
